-- ==== Sys2Proof/Word.lean ====
section
/-!
DEFINITION. The word types of the CHIP-8 core: a byte, a 12-bit program address, a 16-bit word, a nibble, and the number of a
general register (00_scope.md R7, 10_state.md R20, R23, R25).
-/

namespace Sys2Proof

/-- An 8-bit value: a general register, a timer, a memory byte (R20, R30, R50). -/
abbrev Byte := BitVec 8

/-- A 12-bit address: the program counter, a stack entry, the field NNN (R23, R26, R72). -/
abbrev Addr := BitVec 12

/-- A 16-bit value: an instruction word, the index register (R70, R25). -/
abbrev Word := BitVec 16

/-- A 4-bit field of an instruction word (R11). -/
abbrev Nibble := BitVec 4

/-- The number of a general register, V0 to VF (R20). -/
abbrev Reg := Fin 16

/-- The number of a logical key, 0x0 to 0xF (R34). -/
abbrev Key := Fin 16

end Sys2Proof
end

