-- ==== Sys2Proof/Syntax.lean ====
section
/-!
DEFINITION. The 34 instructions of 30_encoding.md R78, one constructor for each row of spec/opcode_table.json, named as the
decode table of R75 names them. An operand is the field of R72 that the instruction's format gives it.
-/

namespace Sys2Proof

/-- The decoded instruction (R76): one constructor per operation, carrying its operands. The outcome UNRECOGNIZED is no row
of the opcode table; it is the other constructor of `Decoded` (Decode.lean). -/
inductive Instr where
  /-- 00E0 CLS (R192). -/
  | cls
  /-- 00EE RET (R102). -/
  | ret
  /-- 1NNN JP NNN (R103). -/
  | jp (nnn : Addr)
  /-- 2NNN CALL NNN (R104). -/
  | call (nnn : Addr)
  /-- 3XNN SE VX, NN (R106). -/
  | seImm (x : Reg) (nn : Byte)
  /-- 4XNN SNE VX, NN (R107). -/
  | sneImm (x : Reg) (nn : Byte)
  /-- 5XY0 SE VX, VY (R108). -/
  | seReg (x y : Reg)
  /-- 6XNN LD VX, NN (R122). -/
  | ldImm (x : Reg) (nn : Byte)
  /-- 7XNN ADD VX, NN (R123). -/
  | addImm (x : Reg) (nn : Byte)
  /-- 8XY0 LD VX, VY (R124). -/
  | ldReg (x y : Reg)
  /-- 8XY1 OR VX, VY (R125). -/
  | or (x y : Reg)
  /-- 8XY2 AND VX, VY (R126). -/
  | and (x y : Reg)
  /-- 8XY3 XOR VX, VY (R127). -/
  | xor (x y : Reg)
  /-- 8XY4 ADD VX, VY (R128). -/
  | addReg (x y : Reg)
  /-- 8XY5 SUB VX, VY (R129). -/
  | sub (x y : Reg)
  /-- 8XY6 SHR VX, VY (R130). -/
  | shr (x y : Reg)
  /-- 8XY7 SUBN VX, VY (R131). -/
  | subn (x y : Reg)
  /-- 8XYE SHL VX, VY (R132). -/
  | shl (x y : Reg)
  /-- 9XY0 SNE VX, VY (R109). -/
  | sneReg (x y : Reg)
  /-- ANNN LD I, NNN (R150). -/
  | ldI (nnn : Addr)
  /-- BNNN JP V0, NNN (R105). -/
  | jpV0 (nnn : Addr)
  /-- CXNN RND VX, NN (R170). -/
  | rnd (x : Reg) (nn : Byte)
  /-- DXYN DRW VX, VY, N (R193). -/
  | drw (x y : Reg) (n : Nibble)
  /-- EX9E SKP VX (R175). -/
  | skp (x : Reg)
  /-- EXA1 SKNP VX (R176). -/
  | sknp (x : Reg)
  /-- FX07 LD VX, DT (R171). -/
  | ldXDt (x : Reg)
  /-- FX0A LD VX, K (R177). -/
  | ldXK (x : Reg)
  /-- FX15 LD DT, VX (R172). -/
  | ldDtX (x : Reg)
  /-- FX18 LD ST, VX (R173). -/
  | ldStX (x : Reg)
  /-- FX1E ADD I, VX (R151). -/
  | addIX (x : Reg)
  /-- FX29 LD F, VX (R152). -/
  | ldFX (x : Reg)
  /-- FX33 LD B, VX (R153). -/
  | ldBX (x : Reg)
  /-- FX55 LD [I], VX (R154). -/
  | ldMemX (x : Reg)
  /-- FX65 LD VX, [I] (R155). -/
  | ldXMem (x : Reg)
deriving DecidableEq, Repr

end Sys2Proof
end

