-- ==== Sys2Proof/WellFormed.lean ====
section
/-!
DEFINITION. Which instruction words are well formed. Every term of `Instr` is well formed by its type: each operand is a field
of R72 and every value of every field is legal (R122 "every NN is legal", R150 "any NNN is legal", R193 "N = 0 draws no row"),
so the check is on the WORD. It is the list of 30_encoding.md R82, clause by clause, written apart from the decoder, which
follows R75; an obligation states that the two agree.
-/

namespace Sys2Proof

/-- The six clauses of R82. -/
inductive UnrecognizedClause where
  /-- (a) 0x0NNN other than 0x00E0 and 0x00EE. -/
  | sysCall
  /-- (b) 0x5XYn with n not 0. -/
  | group5
  /-- (c) 0x8XYn with n in 8, 9, A, B, C, D, F. -/
  | group8
  /-- (d) 0x9XYn with n not 0. -/
  | group9
  /-- (e) 0xEXkk with kk not in 9E, A1. -/
  | groupE
  /-- (f) 0xFXkk with kk not in 07, 0A, 15, 18, 1E, 29, 33, 55, 65. -/
  | groupF
deriving DecidableEq, Repr

/-- Whether the word is one that the given clause of R82 lists. -/
def UnrecognizedClause.lists (c : UnrecognizedClause) (w : Word) : Bool :=
  match c with
  | .sysCall => w.toNat < 0x1000 && !([0x0E0, 0x0EE].contains (w.toNat % 0x1000))
  | .group5 => w.toNat / 0x1000 == 0x5 && w.toNat % 0x10 != 0
  | .group8 => w.toNat / 0x1000 == 0x8 && [0x8, 0x9, 0xA, 0xB, 0xC, 0xD, 0xF].contains (w.toNat % 0x10)
  | .group9 => w.toNat / 0x1000 == 0x9 && w.toNat % 0x10 != 0
  | .groupE => w.toNat / 0x1000 == 0xE && !([0x9E, 0xA1].contains (w.toNat % 0x100))
  | .groupF =>
    w.toNat / 0x1000 == 0xF &&
      !([0x07, 0x0A, 0x15, 0x18, 0x1E, 0x29, 0x33, 0x55, 0x65].contains (w.toNat % 0x100))

/-- A word is well formed when no clause of R82 lists it. -/
def wellFormedWord (w : Word) : Bool :=
  !([.sysCall, .group5, .group8, .group9, .groupE, .groupF] : List UnrecognizedClause).any (·.lists w)

end Sys2Proof
end

