-- ==== Sys2Proof/Decode.lean ====
section
/-!
DEFINITION. Fields, decoder, encoder and opcode table of 30_encoding.md (R71, R72, R75, R78), and the host's entry
`decodeTableWord`. The decoder reads the word alone (R77) and is total (R76).
-/

namespace Sys2Proof

/-- Field `op`, w[15:12] (R71). -/
def fieldOp (w : Word) : Nibble := w.extractLsb' 12 4

/-- Field X, w[11:8] (R72). -/
def fieldX (w : Word) : Reg := (w.extractLsb' 8 4).toFin

/-- Field Y, w[7:4] (R72). -/
def fieldY (w : Word) : Reg := (w.extractLsb' 4 4).toFin

/-- Field N, w[3:0] (R72). -/
def fieldN (w : Word) : Nibble := w.extractLsb' 0 4

/-- Field NN, w[7:0] (R72). -/
def fieldNN (w : Word) : Byte := w.extractLsb' 0 8

/-- Field NNN, w[11:0] (R72). -/
def fieldNNN (w : Word) : Addr := w.extractLsb' 0 12

/-- The decoder's output (R76): an instruction, or UNRECOGNIZED carrying the word. -/
inductive Decoded where
  /-- A word of the opcode map R78. -/
  | instr (i : Instr)
  /-- A word of R82: the non-fatal outcome UnrecognizedInstruction (R81). -/
  | unrecognized (w : Word)
deriving DecidableEq, Repr

/-- Group 0 (R75): 00E0 and 00EE; every other 0NNN is UNRECOGNIZED (R82 (a)). -/
def decodeGroup0 (w : Word) : Decoded :=
  if w = 0x00E0#16 then .instr .cls
  else if w = 0x00EE#16 then .instr .ret
  else .unrecognized w

/-- Group 5 (R75): the low nibble is a sub-opcode (R82 (b)). -/
def decodeGroup5 (w : Word) : Decoded :=
  if fieldN w = 0x0#4 then .instr (.seReg (fieldX w) (fieldY w)) else .unrecognized w

/-- Group 9 (R75): the low nibble is a sub-opcode (R82 (d)). -/
def decodeGroup9 (w : Word) : Decoded :=
  if fieldN w = 0x0#4 then .instr (.sneReg (fieldX w) (fieldY w)) else .unrecognized w

/-- Group E (R75): the low byte is the sub-opcode (R82 (e)). -/
def decodeGroupE (w : Word) : Decoded :=
  if fieldNN w = 0x9E#8 then .instr (.skp (fieldX w))
  else if fieldNN w = 0xA1#8 then .instr (.sknp (fieldX w))
  else .unrecognized w

/-- The sub-opcodes of group 8 (R75): the low nibble selects the operation. -/
def decodeGroup8 (w : Word) : Decoded :=
  let x := fieldX w
  let y := fieldY w
  let n := fieldN w
  if n = 0x0#4 then .instr (.ldReg x y)
  else if n = 0x1#4 then .instr (.or x y)
  else if n = 0x2#4 then .instr (.and x y)
  else if n = 0x3#4 then .instr (.xor x y)
  else if n = 0x4#4 then .instr (.addReg x y)
  else if n = 0x5#4 then .instr (.sub x y)
  else if n = 0x6#4 then .instr (.shr x y)
  else if n = 0x7#4 then .instr (.subn x y)
  else if n = 0xE#4 then .instr (.shl x y)
  else .unrecognized w

/-- The sub-opcodes of group F (R75): the low byte selects the operation. -/
def decodeGroupF (w : Word) : Decoded :=
  let x := fieldX w
  let k := fieldNN w
  if k = 0x07#8 then .instr (.ldXDt x)
  else if k = 0x0A#8 then .instr (.ldXK x)
  else if k = 0x15#8 then .instr (.ldDtX x)
  else if k = 0x18#8 then .instr (.ldStX x)
  else if k = 0x1E#8 then .instr (.addIX x)
  else if k = 0x29#8 then .instr (.ldFX x)
  else if k = 0x33#8 then .instr (.ldBX x)
  else if k = 0x55#8 then .instr (.ldMemX x)
  else if k = 0x65#8 then .instr (.ldXMem x)
  else .unrecognized w

/-- The decoder of R75: the top nibble first, then the sub-opcode of the groups 0, 5, 8, 9, E and F. -/
def decode (w : Word) : Decoded :=
  let op := fieldOp w
  if op = 0x0#4 then decodeGroup0 w
  else if op = 0x1#4 then .instr (.jp (fieldNNN w))
  else if op = 0x2#4 then .instr (.call (fieldNNN w))
  else if op = 0x3#4 then .instr (.seImm (fieldX w) (fieldNN w))
  else if op = 0x4#4 then .instr (.sneImm (fieldX w) (fieldNN w))
  else if op = 0x5#4 then decodeGroup5 w
  else if op = 0x6#4 then .instr (.ldImm (fieldX w) (fieldNN w))
  else if op = 0x7#4 then .instr (.addImm (fieldX w) (fieldNN w))
  else if op = 0x8#4 then decodeGroup8 w
  else if op = 0x9#4 then decodeGroup9 w
  else if op = 0xA#4 then .instr (.ldI (fieldNNN w))
  else if op = 0xB#4 then .instr (.jpV0 (fieldNNN w))
  else if op = 0xC#4 then .instr (.rnd (fieldX w) (fieldNN w))
  else if op = 0xD#4 then .instr (.drw (fieldX w) (fieldY w) (fieldN w))
  else if op = 0xE#4 then decodeGroupE w
  else decodeGroupF w

/-- The word of two bytes in fetch order: the first byte is the high byte (20_memory.md R52). -/
def wordOfBytes (hi lo : Byte) : Word := hi ++ lo

/-- The decoder on bytes: the instruction in the first two, and the bytes after it; none where there are fewer than two bytes
or where the word is UNRECOGNIZED. -/
def decodeBytes : List Byte → Option (Instr × List Byte)
  | hi :: lo :: rest =>
    match decode (wordOfBytes hi lo) with
    | .instr i => some (i, rest)
    | .unrecognized _ => none
  | _ => none

/-- The four bits of a register number. -/
def regBits (r : Reg) : Nibble := BitVec.ofNat 4 r.val

/-- Format NNN (R71). -/
def wordNNN (op : Nibble) (nnn : Addr) : Word := op ++ nnn

/-- Format XNN (R71). -/
def wordXNN (op : Nibble) (x : Reg) (nn : Byte) : Word := op ++ regBits x ++ nn

/-- Formats XY and XYN (R71): the last nibble is the sub-opcode, or N. -/
def wordXYN (op : Nibble) (x y : Reg) (n : Nibble) : Word := op ++ regBits x ++ regBits y ++ n

/-- The encoder: the word of an instruction, in the layouts of R71 with the patterns of R78. -/
def encode : Instr → Word
  | .cls => 0x00E0#16
  | .ret => 0x00EE#16
  | .jp nnn => wordNNN 0x1#4 nnn
  | .call nnn => wordNNN 0x2#4 nnn
  | .seImm x nn => wordXNN 0x3#4 x nn
  | .sneImm x nn => wordXNN 0x4#4 x nn
  | .seReg x y => wordXYN 0x5#4 x y 0x0#4
  | .ldImm x nn => wordXNN 0x6#4 x nn
  | .addImm x nn => wordXNN 0x7#4 x nn
  | .ldReg x y => wordXYN 0x8#4 x y 0x0#4
  | .or x y => wordXYN 0x8#4 x y 0x1#4
  | .and x y => wordXYN 0x8#4 x y 0x2#4
  | .xor x y => wordXYN 0x8#4 x y 0x3#4
  | .addReg x y => wordXYN 0x8#4 x y 0x4#4
  | .sub x y => wordXYN 0x8#4 x y 0x5#4
  | .shr x y => wordXYN 0x8#4 x y 0x6#4
  | .subn x y => wordXYN 0x8#4 x y 0x7#4
  | .shl x y => wordXYN 0x8#4 x y 0xE#4
  | .sneReg x y => wordXYN 0x9#4 x y 0x0#4
  | .ldI nnn => wordNNN 0xA#4 nnn
  | .jpV0 nnn => wordNNN 0xB#4 nnn
  | .rnd x nn => wordXNN 0xC#4 x nn
  | .drw x y n => wordXYN 0xD#4 x y n
  | .skp x => wordXNN 0xE#4 x 0x9E#8
  | .sknp x => wordXNN 0xE#4 x 0xA1#8
  | .ldXDt x => wordXNN 0xF#4 x 0x07#8
  | .ldXK x => wordXNN 0xF#4 x 0x0A#8
  | .ldDtX x => wordXNN 0xF#4 x 0x15#8
  | .ldStX x => wordXNN 0xF#4 x 0x18#8
  | .addIX x => wordXNN 0xF#4 x 0x1E#8
  | .ldFX x => wordXNN 0xF#4 x 0x29#8
  | .ldBX x => wordXNN 0xF#4 x 0x33#8
  | .ldMemX x => wordXNN 0xF#4 x 0x55#8
  | .ldXMem x => wordXNN 0xF#4 x 0x65#8

/-- The mask and the match of an instruction's row in spec/opcode_table.json (R78): a word belongs to the row when the word
under the mask equals the match. -/
def tableRow : Instr → Word × Word
  | .cls => (0xFFFF#16, 0x00E0#16)
  | .ret => (0xFFFF#16, 0x00EE#16)
  | .jp _ => (0xF000#16, 0x1000#16)
  | .call _ => (0xF000#16, 0x2000#16)
  | .seImm _ _ => (0xF000#16, 0x3000#16)
  | .sneImm _ _ => (0xF000#16, 0x4000#16)
  | .seReg _ _ => (0xF00F#16, 0x5000#16)
  | .ldImm _ _ => (0xF000#16, 0x6000#16)
  | .addImm _ _ => (0xF000#16, 0x7000#16)
  | .ldReg _ _ => (0xF00F#16, 0x8000#16)
  | .or _ _ => (0xF00F#16, 0x8001#16)
  | .and _ _ => (0xF00F#16, 0x8002#16)
  | .xor _ _ => (0xF00F#16, 0x8003#16)
  | .addReg _ _ => (0xF00F#16, 0x8004#16)
  | .sub _ _ => (0xF00F#16, 0x8005#16)
  | .shr _ _ => (0xF00F#16, 0x8006#16)
  | .subn _ _ => (0xF00F#16, 0x8007#16)
  | .shl _ _ => (0xF00F#16, 0x800E#16)
  | .sneReg _ _ => (0xF00F#16, 0x9000#16)
  | .ldI _ => (0xF000#16, 0xA000#16)
  | .jpV0 _ => (0xF000#16, 0xB000#16)
  | .rnd _ _ => (0xF000#16, 0xC000#16)
  | .drw _ _ _ => (0xF000#16, 0xD000#16)
  | .skp _ => (0xF0FF#16, 0xE09E#16)
  | .sknp _ => (0xF0FF#16, 0xE0A1#16)
  | .ldXDt _ => (0xF0FF#16, 0xF007#16)
  | .ldXK _ => (0xF0FF#16, 0xF00A#16)
  | .ldDtX _ => (0xF0FF#16, 0xF015#16)
  | .ldStX _ => (0xF0FF#16, 0xF018#16)
  | .addIX _ => (0xF0FF#16, 0xF01E#16)
  | .ldFX _ => (0xF0FF#16, 0xF029#16)
  | .ldBX _ => (0xF0FF#16, 0xF033#16)
  | .ldMemX _ => (0xF0FF#16, 0xF055#16)
  | .ldXMem _ => (0xF0FF#16, 0xF065#16)

/-- The instruction word whose low `nbits` bits are those of `w` and whose other bits are 0, numbered as
spec/opcode_table.json numbers them: every instruction is one 16-bit word (R70), bit 0 its least significant bit. -/
def tableWord (nbits w : Nat) : Word := BitVec.ofNat 16 (w % 2 ^ nbits)

/-- The first byte of a word as it lies in memory, its high byte (20_memory.md R52). -/
def highByte (w : Word) : Byte := w.extractLsb' 8 8

/-- The second byte of a word as it lies in memory, its low byte (20_memory.md R52). -/
def lowByte (w : Word) : Byte := w.extractLsb' 0 8

/-- What the decoder reads from the table's word `w`, laid out in memory order. -/
def decodeTableWord (nbits w : Nat) : Option Instr :=
  (decodeBytes [highByte (tableWord nbits w), lowByte (tableWord nbits w)]).map (·.1)

end Sys2Proof
end

