-- ==== Sys2Proof/Config.lean ====
section
/-!
DEFINITION. What an implementation fixes and what the spec leaves open: the quirk configuration (00_scope.md R8), the plain
data the outside world gives the block (60_exceptions.md R228), and the free values, opaque constants without a body.
-/

namespace Sys2Proof

/-- The quirk configuration QCFG (R8): six booleans, immutable for a run, with no default. -/
structure Quirks where
  /-- Q_LOGIC_VF_RESET: 8XY1, 8XY2, 8XY3 write VF <- 0 after the result. -/
  logicVfReset : Bool
  /-- Q_SHIFT_VY: 8XY6, 8XYE shift VY into VX. -/
  shiftVy : Bool
  /-- Q_MEM_INC_I: FX55, FX65 leave I incremented. -/
  memIncI : Bool
  /-- Q_SPRITE_WRAP: DXYN pixels beyond the grid edge wrap. -/
  spriteWrap : Bool
  /-- Q_DRAW_EXTRA_ROW: DXYN draws N + 1 rows. -/
  drawExtraRow : Bool
  /-- Q_FX1E_VF: FX1E writes VF from the index overflow test. -/
  fx1eVf : Bool
deriving DecidableEq, Repr

/-- The agents that step (60 R233): the CPU with its Cycle Driver, and the Timer. -/
inductive Agent where
  /-- The CPU and the Cycle Driver, one thread of control. -/
  | driver
  /-- The Timer Subsystem. -/
  | timer
deriving DecidableEq, Repr, Inhabited

/-- The input collaborator's answer to a poll (60 R228): the 16 key states, a pause toggle, a termination signal. -/
structure PollReply where
  keys : Vector Bool 16
  pauseToggle : Bool
  shutdown : Bool
deriving DecidableEq, Repr, Inhabited

/-- A grid of 64 columns by 32 rows of booleans (10 R32, R33): row y, then column x. -/
structure Grid where
  rows : Vector (Vector Bool 64) 32
deriving DecidableEq, Repr

/-- The grid with every cell false. -/
def Grid.clear : Grid := ⟨Vector.replicate 32 (Vector.replicate 64 false)⟩

/-- A rectangle of the grid, as the region list of `takeChanges` holds it (44 R199). -/
structure Region where
  x : Nat
  y : Nat
  w : Nat
  h : Nat
deriving DecidableEq, Repr

/-- FREE VALUE (43 R170, 92 D22, log 3). The random byte of the n-th free draw of CXNN. -/
opaque Config.randomByte : Nat → Byte

/-- FREE VALUE (60 R220, 92 D32, log 4). How many ticks begin the n-th round of the free schedule: any number. -/
opaque Config.leadTicks : Nat → Nat

/-- FREE VALUE (60 R220, 70 R246, 92 D32, log 4). How many turns the CPU and the Cycle Driver take in the n-th round of the free
schedule beyond the one that every round gives them: any number. -/
opaque Config.extraDriverTurns : Nat → Nat

/-- FREE VALUE (60 R224, R228, log 5). The host's reply to the n-th free poll. -/
opaque Config.pollReply : Nat → PollReply

/-- FREE VALUE (44 R199, 92 D27, log 6). The region list proposed at the n-th render for a mask of changed cells; it is used only
where it is a cover that R199 allows. -/
opaque Config.regionChoice : Nat → Grid → List Region

end Sys2Proof
end

