-- ==== Sys2Proof/Machine/State.lean ====
section
/-!
DEFINITION. The machine's state, as plain data: every piece of state of 10_state.md (R20 to R40), the frame phase and the
render stream that the Cycle Driver implies (60_exceptions.md R216, R224, R229), and the oracles through which the outside
world acts (60 R228). `State.reset` is the state after creation with no ROM loaded (R40).
-/

namespace Sys2Proof.Machine

open Sys2Proof

/-- Why a step stops with no next state. No instruction raises one: a fatal fault of the spec is a next state (60 R212). -/
inductive Fault where
  /-- HALTED is true and no agent steps (10 R36, 93 U23). Raised by `step` alone. Safe: the machine is stuck. -/
  | halted
deriving DecidableEq, Repr

/-- Why an instruction has no meaning. -/
inductive Refusal where
  /-- An arm of `exec` that has no meaning yet. Safe. No arm answers it. -/
  | notModelled (mnemonic : String)
deriving DecidableEq, Repr

/-- The five error kinds of 60 R210. -/
inductive ErrorKind where
  | romTooLarge
  | addressOutOfRange
  | stackOverflow
  | stackUnderflow
  | unrecognizedInstruction
deriving DecidableEq, Repr

/-- The phase of the key-wait latch (10 R31). -/
inductive KeyPhase where
  /-- The source's phase 1: scanning for a pressed key. -/
  | idle
  /-- The source's phase 2: waiting for the latched key's release. -/
  | waitRelease
deriving DecidableEq, Repr

/-- KW, the key-wait latch of FX0A (10 R31). `key` has meaning only while the phase is `waitRelease`. -/
structure KeyWait where
  phase : KeyPhase
  key : Key
deriving DecidableEq, Repr

/-- DIRTY, the display engine's change record (10 R32). -/
structure Dirty where
  /-- Set by 00E0. -/
  whole : Bool
  /-- The cells DXYN flipped since the last `takeChanges`. -/
  cells : Grid
deriving DecidableEq, Repr

/-- The FAULT record (10 R37). Its `code` is the number of its kind, `FaultRecord.code` in Ops.lean (log 10). -/
structure FaultRecord where
  kind : ErrorKind
  /-- The address the faulting instruction was fetched from. -/
  pc : Addr
  /-- The instruction word, none when the fetch itself faulted. -/
  word : Option Word
  /-- The out-of-range address, or SP for the stack faults. -/
  addr : Nat
deriving DecidableEq, Repr

/-- One event of the UNREC stream (10 R39). -/
structure UnrecEvent where
  pc : Addr
  word : Word
deriving DecidableEq, Repr

/-- One RENDER output (60 R229): the region list and the framebuffer handed to the render collaborator. -/
structure Render where
  regions : List Region
  fb : Grid
deriving DecidableEq, Repr

/-- Which atomic step of the frame the Cycle Driver takes next (60 R216, R224). -/
inductive Phase where
  /-- The poll phase. -/
  | poll
  /-- The execute phase: a CPU step is next, and `left` more follow it in this frame. -/
  | execute (left : Nat)
  /-- The present phase. -/
  | present
deriving DecidableEq, Repr

/-- An oracle as plain data: the values already fixed, next first, and how many values have been taken from the free source
since they ran out (00 R17; log 3, 5). -/
structure Oracle (α : Type) where
  fixed : List α
  drawn : Nat
deriving DecidableEq, Repr

/-- The schedule of the agents as plain data (60 R220; log 4): the turns already fixed, next first; then the free rounds, by the
number of the round and how many of its turns have been taken. -/
structure Schedule where
  fixed : List Agent
  round : Nat
  taken : Nat
deriving DecidableEq, Repr

/-- Memory: the (address, byte) pairs that differ from what an unlisted address reads as (log 11). -/
abbrev Memory := List Host.Cell

/-- The whole state. The names beside the fields are the spec's. -/
structure State where
  /-- V0 to VF (R20); VF is register 15 (R21). -/
  v : Vector Byte 16
  /-- I (R25). -/
  index : Word
  /-- PC (R23). -/
  pc : Addr
  /-- STACK (R26). -/
  stack : Vector Addr 16
  /-- SP, 0 to 16 (R27). -/
  sp : Fin 17
  /-- DT (R30). -/
  dt : Byte
  /-- ST (R30). -/
  st : Byte
  /-- MEM (20 R50). -/
  mem : Memory
  /-- FB (R33). -/
  fb : Grid
  /-- KEY (R34). -/
  key : Vector Bool 16
  /-- KW (R31). -/
  kw : KeyWait
  /-- DIRTY (R32). -/
  dirty : Dirty
  /-- QCFG (R35). -/
  qcfg : Quirks
  /-- PAUSED (R35). -/
  paused : Bool
  /-- HALTED (R36). -/
  halted : Bool
  /-- FAULT (R37); its change from none to a record is the output FAULT_OUT (60 R229; log 23). -/
  fault : Option FaultRecord
  /-- UNREC, oldest first (R39). -/
  unrec : List UnrecEvent
  /-- IPF (60 R225), constant in a run. -/
  ipf : Nat
  /-- The frame's phase (60 R224). -/
  phase : Phase
  /-- RENDER, oldest first (60 R229). -/
  renders : List Render
  /-- The model's own: the RNG input (60 R228). -/
  rng : Oracle Byte
  /-- The model's own: the schedule of the agents (60 R220). -/
  turns : Schedule
  /-- The model's own: the POLL replies (60 R228). -/
  polls : Oracle PollReply
deriving DecidableEq, Repr

/-- The machine right after creation with an empty ROM (R40, 70_reset_and_hazards.md R240): every value is R40's (its own
decision D7 where the source gives none), but for QCFG, which the spec leaves to the load: all false here (log 1). IPF is the
spec's default (log 2), and no oracle has a fixed value (log 3, 4, 5). -/
def State.reset : State where
  v := Vector.replicate 16 0x00#8
  index := 0x0000#16
  pc := 0x200#12
  stack := Vector.replicate 16 0x000#12
  sp := 0
  dt := 0#8
  st := 0#8
  mem := []
  fb := Grid.clear
  key := Vector.replicate 16 false
  kw := ⟨.idle, 0⟩
  dirty := ⟨false, Grid.clear⟩
  qcfg := ⟨false, false, false, false, false, false⟩
  paused := false
  halted := false
  fault := none
  unrec := []
  ipf := 10
  phase := .poll
  renders := []
  rng := ⟨[], 0⟩
  turns := ⟨[], 0, 0⟩
  polls := ⟨[], 0⟩

end Sys2Proof.Machine
end

