-- ==== Sys2Proof/Machine/Ops.lean ====
section
/-!
DEFINITION. The named operations over the state: oracles, registers, the program counter, the stack, the memory primitives
and runs of bytes, the fetch, and the fatal fault, which every instruction that raises one takes through `conclude`.
-/

namespace Sys2Proof.Machine

open Sys2Proof

/-! ### Oracles (00_scope.md R17) -/

/-- The oracle's next value: the next fixed one, else the free one of its count. -/
def Oracle.peek {α : Type} (free : Nat → α) (o : Oracle α) : α :=
  match o.fixed with
  | a :: _ => a
  | [] => free o.drawn

/-- The oracle after one value has been taken. -/
def Oracle.advance {α : Type} (o : Oracle α) : Oracle α :=
  match o.fixed with
  | _ :: rest => { o with fixed := rest }
  | [] => { o with drawn := o.drawn + 1 }

/-! ### The schedule (60_exceptions.md R220, 70_reset_and_hazards.md R246) -/

/-- How many turns of the schedule's round come before its last one: its leading ticks, and its driver turns, at least one. -/
def Schedule.beforeLast (q : Schedule) : Nat := Config.leadTicks q.round + (Config.extraDriverTurns q.round + 1)

/-- The agent whose turn it is: the next fixed one; else, in a free round, the Timer for the leading ticks, then the driver, then
the Timer for the round's last turn. -/
def Schedule.next (q : Schedule) : Agent :=
  match q.fixed with
  | a :: _ => a
  | [] => if Config.leadTicks q.round ≤ q.taken ∧ q.taken < q.beforeLast then .driver else .timer

/-- The schedule after one turn has been taken. -/
def Schedule.advance (q : Schedule) : Schedule :=
  match q.fixed with
  | _ :: rest => { q with fixed := rest }
  | [] => if q.taken < q.beforeLast then { q with taken := q.taken + 1 } else { q with round := q.round + 1, taken := 0 }

/-! ### Registers (10_state.md R20, R21) -/

/-- VF is register 15 (R21). -/
def vF : Reg := 15

/-- Read V[r]. -/
def State.getV (s : State) (r : Reg) : Byte := s.v[r]

/-- V[r] <- b. -/
def State.setV (s : State) (r : Reg) (b : Byte) : State := { s with v := s.v.set r b }

/-- V[x] <- result, then VF <- flag: with x = 15 the flag stays (R21, 41_register_alu.md R121). -/
def State.setResultFlag (s : State) (x : Reg) (result flag : Byte) : State := (s.setV x result).setV vF flag

/-- VF <- flag where the quirk asks for it (R22). -/
def State.setFlagIf (s : State) (quirk : Bool) (flag : Byte) : State := if quirk then s.setV vF flag else s

/-- V0, V1, ... take the bytes in order; the registers past the last byte keep their values (42_index_memory.md R155). -/
def State.loadRegs (s : State) (bytes : List Byte) : State :=
  { s with v := Vector.ofFn fun r : Reg => bytes.getD r.val (s.getV r) }

/-- V0 to V[x], in order (42 R154). -/
def State.firstRegs (s : State) (x : Reg) : List Byte := s.v.toList.take (x.val + 1)

/-! ### Program counter (10 R24) -/

/-- PC <- (PC + 2) mod 4096, the advance of the fetch (30_encoding.md R73, R74). -/
def State.advance (s : State) : State := { s with pc := s.pc + 2#12 }

/-- PC <- target. -/
def State.setPc (s : State) (target : Addr) : State := { s with pc := target }

/-- Skip() where the condition holds: PC <- (PC + 2) mod 4096 once more (40_control_flow.md R101). -/
def State.skipIf (s : State) (c : Bool) : State := if c then { s with pc := s.pc + 2#12 } else s

/-- PC <- (PC - 2) mod 4096: the waiting FX0A is fetched again (43_random_timer_keypad.md R177). -/
def State.refetch (s : State) : State := { s with pc := s.pc - 2#12 }

/-! ### Raised faults (00 R15) -/

/-- A raised fault: its kind and the info recorded with it (60_exceptions.md R210). -/
structure Raise where
  kind : ErrorKind
  info : Nat
deriving DecidableEq, Repr

/-- The number of an error kind (60 R210). -/
def ErrorKind.code : ErrorKind → Nat
  | .romTooLarge => 1
  | .addressOutOfRange => 2
  | .stackOverflow => 3
  | .stackUnderflow => 4
  | .unrecognizedInstruction => 5

/-- FAULT.code (10 R37). -/
def FaultRecord.code (f : FaultRecord) : Nat := f.kind.code

/-- FatalFault (60 R212) on the state before the faulting instruction's fetch: the record is set and the machine halts;
nothing else changes. DESIGN CHOICE (log 23): the output FAULT_OUT (60 R229), whose form the spec leaves open, is FAULT's change
from none to the record; the model keeps no event beside it. -/
def State.fatalFault (s0 : State) (word : Option Word) (r : Raise) : State :=
  { s0 with fault := some ⟨r.kind, s0.pc, word, r.info⟩, halted := true }

/-- The end of an instruction that may raise: the state its body reached, or the fatal fault on the state before the fetch
(30 R73). -/
def conclude (i : Instr) (s0 : State) (body : Except Raise State) : Host.Outcome State Fault Refusal :=
  match body with
  | .ok s => .next s
  | .error r => .next (s0.fatalFault (some (encode i)) r)

/-! ### Call stack (10 R26 to R29) -/

/-- Push (R28). -/
def State.push (s : State) (a : Addr) : Except Raise State :=
  if h : s.sp.val < 16 then
    .ok { s with stack := s.stack.set s.sp.val a, sp := ⟨s.sp.val + 1, by omega⟩ }
  else .error ⟨.stackOverflow, s.sp.val⟩

/-- Pop (R29): the popped address and the state with SP lowered; the entry keeps its value. -/
def State.pop (s : State) : Except Raise (Addr × State) :=
  if h : 0 < s.sp.val then
    .ok (s.stack[s.sp.val - 1]'(by omega), { s with sp := ⟨s.sp.val - 1, by omega⟩ })
  else .error ⟨.stackUnderflow, s.sp.val⟩

/-! ### Memory primitives (00 R14) and runs of bytes -/

/-- MemRead(a, 1). -/
def memRead (m : Memory) (a : Nat) : Except Raise Byte :=
  if a < memSize then .ok (Memory.read m a) else .error ⟨.addressOutOfRange, a⟩

/-- MemWrite(a, 1, b). -/
def memWrite (m : Memory) (a : Nat) (b : Byte) : Except Raise Memory :=
  if a < memSize then .ok (Memory.write m a b) else .error ⟨.addressOutOfRange, a⟩

/-- Reads of the n bytes at a, a + 1, ..., in that order; the first address out of range raises (42 R156). -/
def readRun (m : Memory) (a n : Nat) : Except Raise (List Byte) :=
  match n with
  | 0 => .ok []
  | k + 1 => do
    let b ← memRead m a
    let rest ← readRun m (a + 1) k
    return b :: rest

/-- Writes of the bytes to a, a + 1, ..., in that order; the first address out of range raises (42 R156). -/
def writeRun (m : Memory) (a : Nat) (bytes : List Byte) : Except Raise Memory :=
  match bytes with
  | [] => .ok m
  | b :: rest => do
    let m' ← memWrite m a b
    writeRun m' (a + 1) rest

/-! ### Fetch (20_memory.md R52, R55) -/

/-- Fetch(pc): two bytes, the first the high one; pc + 1 is not reduced mod 4096. -/
def fetch (m : Memory) (pc : Addr) : Except Raise Word := do
  let hi ← memRead m pc.toNat
  let lo ← memRead m (pc.toNat + 1)
  return wordOfBytes hi lo

/-! ### Outputs -/

/-- GATE = (ST ≠ 0), the sound gate (10 R38, 60 R221). -/
def State.gate (s : State) : Bool := s.st != 0#8

end Sys2Proof.Machine
end

