-- ==== Sys2Proof/Machine/Flags.lean ====
section
/-!
DEFINITION. The laws of 41_register_alu.md R120: each operation computes exactly on unsigned values, and the result is reduced
mod 256; its flag reads the exact values. The index overflow test of 42_index_memory.md R151 stands beside them.
-/

namespace Sys2Proof.Machine

open Sys2Proof

/-- A flag as VF holds it: 1 or 0. -/
def flagByte (c : Bool) : Byte := if c then 1#8 else 0#8

/-- (a + b) mod 256. -/
def addResult (a b : Byte) : Byte := BitVec.ofNat 8 (a.toNat + b.toNat)

/-- Carry: 1 iff a + b > 255. -/
def addCarry (a b : Byte) : Byte := flagByte (decide (a.toNat + b.toNat > 255))

/-- (a - b) mod 256 = (a + 256 - b) mod 256. -/
def subResult (a b : Byte) : Byte := BitVec.ofNat 8 (a.toNat + 256 - b.toNat)

/-- No borrow: 1 iff a ≥ b. -/
def noBorrow (a b : Byte) : Byte := flagByte (decide (a.toNat ≥ b.toNat))

/-- a >> 1. -/
def shrResult (a : Byte) : Byte := BitVec.ofNat 8 (a.toNat / 2)

/-- The bit shifted out on the right, bit 0. -/
def shrOut (a : Byte) : Byte := flagByte (a.getLsbD 0)

/-- (a << 1) mod 256. -/
def shlResult (a : Byte) : Byte := BitVec.ofNat 8 (a.toNat * 2)

/-- The bit shifted out on the left, bit 7. -/
def shlOut (a : Byte) : Byte := flagByte (a.getLsbD 7)

/-- (I + v) mod 65536 (42 R151). -/
def indexSum (i : Word) (v : Byte) : Word := BitVec.ofNat 16 (i.toNat + v.toNat)

/-- The index overflow flag: 1 iff the unreduced sum I + v is 4096 or more (42 R151). -/
def indexOverflow (i : Word) (v : Byte) : Byte := flagByte (decide (i.toNat + v.toNat ≥ memSize))

end Sys2Proof.Machine
end

