-- ==== Sys2Proof/Machine/Operands.lean ====
section
/-!
DEFINITION. The operand forms: the shift source, the font address, the decimal digits, the key test, the key scan, and the
sprite's start, row count and bits.
-/

namespace Sys2Proof.Machine

open Sys2Proof

/-- The source of 8XY6 and 8XYE: VY under Q_SHIFT_VY, else VX (41_register_alu.md R130, R132). -/
def State.shiftSource (s : State) (x y : Reg) : Byte := if s.qcfg.shiftVy then s.getV y else s.getV x

/-- FONT_BASE + 5 * (v & 0xF), the address of a digit's glyph (42_index_memory.md R152). -/
def fontAddress (v : Byte) : Word := BitVec.ofNat 16 (fontBase + 5 * (v &&& 0x0F#8).toNat)

/-- Hundreds, tens and ones of a byte, in the order FX33 stores them (42 R153). -/
def decimalDigits (v : Byte) : List Byte :=
  [BitVec.ofNat 8 (v.toNat / 100), BitVec.ofNat 8 (v.toNat / 10 % 10), BitVec.ofNat 8 (v.toNat % 10)]

/-- Pressed(v): v names a key and the key is pressed (43_random_timer_keypad.md R174). -/
def State.pressed (s : State) (v : Byte) : Bool := if h : v.toNat < 16 then s.key[v.toNat] else false

/-- The least key that is pressed, if any: the scan 0 to 15 (43 R177, 92 D23). -/
def State.firstPressed (s : State) : Option Key := (List.finRange 16).find? fun k => s.key[k]

/-- I after a block transfer up to V[x]: I + X + 1 mod 65536 under Q_MEM_INC_I, else I (42 R154, R155). -/
def State.indexAfterRun (s : State) (x : Reg) : Word :=
  if s.qcfg.memIncI then BitVec.ofNat 16 (s.index.toNat + x.val + 1) else s.index

/-- The column at which a sprite starts: VX mod 64 (44_display.md R193). -/
def spriteColumn (v : Byte) : Nat := v.toNat % 64

/-- The row at which a sprite starts: VY mod 32 (44 R193). -/
def spriteRow (v : Byte) : Nat := v.toNat % 32

/-- R, the number of rows: N, and one more under Q_DRAW_EXTRA_ROW (44 R193, R194). -/
def State.spriteRows (s : State) (n : Nibble) : Nat := n.toNat + (if s.qcfg.drawExtraRow then 1 else 0)

/-- The sprite bit of column offset c in a row's byte: bit 7 - c (44 R191). -/
def spriteBit (row : Byte) (c : Nat) : Bool := row.getLsbD (7 - c)

end Sys2Proof.Machine
end

