-- ==== Sys2Proof/Machine/Alu.lean ====
section
/-!
DEFINITION. 41_register_alu.md: the immediate forms and group 8. Operands are read from the state before any write, the result
is written second and the flag last (R121).
-/

namespace Sys2Proof.Machine

open Sys2Proof

/-- LD VX, NN (R122). -/
def execLdImm (x : Reg) (nn : Byte) (s : State) : Host.Outcome State Fault Refusal :=
  .next (s.advance.setV x nn)

/-- ADD VX, NN (R123): no flag. -/
def execAddImm (x : Reg) (nn : Byte) (s : State) : Host.Outcome State Fault Refusal :=
  .next (s.advance.setV x (addResult (s.getV x) nn))

/-- LD VX, VY (R124). -/
def execLdReg (x y : Reg) (s : State) : Host.Outcome State Fault Refusal :=
  .next (s.advance.setV x (s.getV y))

/-- OR VX, VY (R125). -/
def execOr (x y : Reg) (s : State) : Host.Outcome State Fault Refusal :=
  .next ((s.advance.setV x (s.getV x ||| s.getV y)).setFlagIf s.qcfg.logicVfReset 0#8)

/-- AND VX, VY (R126). -/
def execAnd (x y : Reg) (s : State) : Host.Outcome State Fault Refusal :=
  .next ((s.advance.setV x (s.getV x &&& s.getV y)).setFlagIf s.qcfg.logicVfReset 0#8)

/-- XOR VX, VY (R127). -/
def execXor (x y : Reg) (s : State) : Host.Outcome State Fault Refusal :=
  .next ((s.advance.setV x (s.getV x ^^^ s.getV y)).setFlagIf s.qcfg.logicVfReset 0#8)

/-- ADD VX, VY (R128). -/
def execAddReg (x y : Reg) (s : State) : Host.Outcome State Fault Refusal :=
  .next (s.advance.setResultFlag x (addResult (s.getV x) (s.getV y)) (addCarry (s.getV x) (s.getV y)))

/-- SUB VX, VY (R129). -/
def execSub (x y : Reg) (s : State) : Host.Outcome State Fault Refusal :=
  .next (s.advance.setResultFlag x (subResult (s.getV x) (s.getV y)) (noBorrow (s.getV x) (s.getV y)))

/-- SHR VX, VY (R130). -/
def execShr (x y : Reg) (s : State) : Host.Outcome State Fault Refusal :=
  .next (s.advance.setResultFlag x (shrResult (s.shiftSource x y)) (shrOut (s.shiftSource x y)))

/-- SUBN VX, VY (R131): VY - VX. -/
def execSubn (x y : Reg) (s : State) : Host.Outcome State Fault Refusal :=
  .next (s.advance.setResultFlag x (subResult (s.getV y) (s.getV x)) (noBorrow (s.getV y) (s.getV x)))

/-- SHL VX, VY (R132). -/
def execShl (x y : Reg) (s : State) : Host.Outcome State Fault Refusal :=
  .next (s.advance.setResultFlag x (shlResult (s.shiftSource x y)) (shlOut (s.shiftSource x y)))

end Sys2Proof.Machine
end

