-- ==== Sys2Proof/Machine/ControlFlow.lean ====
section
/-!
DEFINITION. 40_control_flow.md: return, jump, call, offset jump and the skips on registers. Every meaning takes the state
before the fetch and makes the fetch's advance itself (30_encoding.md R73, log 21).
-/

namespace Sys2Proof.Machine

open Sys2Proof

/-- RET (R102). -/
def execRet (s : State) : Host.Outcome State Fault Refusal :=
  conclude .ret s (s.advance.pop.map fun p => p.2.setPc p.1)

/-- JP NNN (R103). -/
def execJp (nnn : Addr) (s : State) : Host.Outcome State Fault Refusal :=
  .next (s.advance.setPc nnn)

/-- CALL NNN (R104): the advanced PC is pushed. -/
def execCall (nnn : Addr) (s : State) : Host.Outcome State Fault Refusal :=
  conclude (.call nnn) s ((s.advance.push s.advance.pc).map fun t => t.setPc nnn)

/-- JP V0, NNN (R105): NNN + V0 mod 4096. -/
def execJpV0 (nnn : Addr) (s : State) : Host.Outcome State Fault Refusal :=
  .next (s.advance.setPc (BitVec.ofNat 12 (nnn.toNat + (s.getV 0).toNat)))

/-- SE VX, NN (R106). -/
def execSeImm (x : Reg) (nn : Byte) (s : State) : Host.Outcome State Fault Refusal :=
  .next (s.advance.skipIf (s.getV x == nn))

/-- SNE VX, NN (R107). -/
def execSneImm (x : Reg) (nn : Byte) (s : State) : Host.Outcome State Fault Refusal :=
  .next (s.advance.skipIf (s.getV x != nn))

/-- SE VX, VY (R108). -/
def execSeReg (x y : Reg) (s : State) : Host.Outcome State Fault Refusal :=
  .next (s.advance.skipIf (s.getV x == s.getV y))

/-- SNE VX, VY (R109). -/
def execSneReg (x y : Reg) (s : State) : Host.Outcome State Fault Refusal :=
  .next (s.advance.skipIf (s.getV x != s.getV y))

end Sys2Proof.Machine
end

