-- ==== Sys2Proof/Machine/Devices.lean ====
section
/-!
DEFINITION. 43_random_timer_keypad.md: the random byte, the timer registers, the keypad skips and the key wait.
-/

namespace Sys2Proof.Machine

open Sys2Proof

/-- The state after one draw of the RNG oracle (R170): every execution takes a fresh draw. -/
def State.takeDraw (s : State) : State := { s with rng := s.rng.advance }

/-- The byte the next CXNN draws (R170, log 3). -/
def State.nextDraw (s : State) : Byte := s.rng.peek Config.randomByte

/-- RND VX, NN (R170). -/
def execRnd (x : Reg) (nn : Byte) (s : State) : Host.Outcome State Fault Refusal :=
  .next (s.advance.takeDraw.setV x (s.nextDraw &&& nn))

/-- LD VX, DT (R171). -/
def execLdXDt (x : Reg) (s : State) : Host.Outcome State Fault Refusal :=
  .next (s.advance.setV x s.dt)

/-- LD DT, VX (R172). -/
def execLdDtX (x : Reg) (s : State) : Host.Outcome State Fault Refusal :=
  .next { s.advance with dt := s.getV x }

/-- LD ST, VX (R173): the sound gate follows at once (60_exceptions.md R221). -/
def execLdStX (x : Reg) (s : State) : Host.Outcome State Fault Refusal :=
  .next { s.advance with st := s.getV x }

/-- SKP VX (R175). -/
def execSkp (x : Reg) (s : State) : Host.Outcome State Fault Refusal :=
  .next (s.advance.skipIf (s.pressed (s.getV x)))

/-- SKNP VX (R176). -/
def execSknp (x : Reg) (s : State) : Host.Outcome State Fault Refusal :=
  .next (s.advance.skipIf (!s.pressed (s.getV x)))

/-- KW <- (phase, key). -/
def State.setKw (s : State) (p : KeyPhase) (k : Key) : State := { s with kw := ⟨p, k⟩ }

/-- The body of FX0A on the advanced state (R177). In phase IDLE the least pressed key is latched into VX and KW, and the
instruction is fetched again whether or not a key was found; in phase WAIT_RELEASE it is fetched again while the latched key is
held, and its release ends the wait. -/
def State.waitKey (s : State) (x : Reg) : State :=
  match s.kw.phase with
  | .idle =>
    match s.firstPressed with
    | some k => ((s.setV x (BitVec.ofNat 8 k.val)).setKw .waitRelease k).refetch
    | none => s.refetch
  | .waitRelease => if s.key[s.kw.key] then s.refetch else s.setKw .idle 0

/-- LD VX, K (R177). -/
def execLdXK (x : Reg) (s : State) : Host.Outcome State Fault Refusal :=
  .next (s.advance.waitKey x)

end Sys2Proof.Machine
end

