-- ==== Sys2Proof/Machine/Display.lean ====
section
/-!
DEFINITION. 44_display.md: the framebuffer, clear screen, the sprite XOR compositor with collision detection, and the change
record that the present phase takes (R190 to R199).
-/

namespace Sys2Proof

/-- The cell of column x and row y; false outside the grid. -/
def Grid.cell (g : Grid) (x y : Nat) : Bool := if h : x < 64 ∧ y < 32 then (g.rows[y]'h.2)[x]'h.1 else false

/-- The grid with the cell of column x and row y set to b; the grid itself outside. -/
def Grid.setCell (g : Grid) (x y : Nat) (b : Bool) : Grid :=
  if h : x < 64 ∧ y < 32 then ⟨g.rows.set y ((g.rows[y]'h.2).set x b h.1) h.2⟩ else g

/-- Whether some cell is true. -/
def Grid.anyCell (g : Grid) : Bool := (List.range 32).any fun y => (List.range 64).any fun x => g.cell x y

/-- Whether the cell of column x and row y lies in the rectangle. -/
def Region.covers (r : Region) (x y : Nat) : Bool :=
  decide (r.x ≤ x) && decide (x < r.x + r.w) && decide (r.y ≤ y) && decide (y < r.y + r.h)

/-- Whether the rectangle lies inside the grid. -/
def Region.inGrid (r : Region) : Bool := decide (r.x + r.w ≤ 64) && decide (r.y + r.h ≤ 32)

end Sys2Proof

namespace Sys2Proof.Machine

open Sys2Proof

/-! ### Clear screen -/

/-- CLS (R192, R197). -/
def execCls (s : State) : Host.Outcome State Fault Refusal :=
  .next { s.advance with fb := Grid.clear, dirty := { s.dirty with whole := true } }

/-! ### Draw sprite -/

/-- What a draw works on: FB, DIRTY.cells, and whether a collision has happened. -/
structure Canvas where
  fb : Grid
  cells : Grid
  hit : Bool
deriving DecidableEq, Repr

/-- One set sprite bit at (px, py) (R193, R194): wrapped under Q_SPRITE_WRAP, else clipped; a cell inside the grid is flipped
and recorded, and a cell that was on is a collision. -/
def Canvas.plot (c : Canvas) (wrap : Bool) (px py : Nat) : Canvas :=
  let x := if wrap then px % 64 else px
  let y := if wrap then py % 32 else py
  if x < 64 ∧ y < 32 then
    ⟨c.fb.setCell x y (!c.fb.cell x y), c.cells.setCell x y true, c.hit || c.fb.cell x y⟩
  else c

/-- One sprite row: column offsets 0 to 7 in order (R193). -/
def Canvas.drawRow (c : Canvas) (wrap : Bool) (x0 py : Nat) (row : Byte) : Canvas :=
  (List.range 8).foldl (fun c k => if spriteBit row k then c.plot wrap (x0 + k) py else c) c

/-- The sprite's rows from row py on, top row first (R193). -/
def Canvas.drawRows (c : Canvas) (wrap : Bool) (x0 py : Nat) (rows : List Byte) : Canvas :=
  match rows with
  | [] => c
  | row :: rest => (c.drawRow wrap x0 py row).drawRows wrap x0 (py + 1) rest

/-- The draw on the state, its sprite bytes read (R193): VF is 0 before the draw and 1 after a collision (R195). -/
def State.drawSprite (s : State) (x0 y0 : Nat) (rows : List Byte) : State :=
  let c := (Canvas.mk s.fb s.dirty.cells false).drawRows s.qcfg.spriteWrap x0 y0 rows
  { s with fb := c.fb, dirty := { s.dirty with cells := c.cells } }.setV vF (flagByte c.hit)

/-- DRW VX, VY, N (R193): VX and VY are read before VF is reset, every sprite byte is read before the draw. -/
def execDrw (x y : Reg) (n : Nibble) (s : State) : Host.Outcome State Fault Refusal :=
  conclude (.drw x y n) s
    ((readRun s.mem s.index.toNat (s.spriteRows n)).map
      (s.advance.drawSprite (spriteColumn (s.getV x)) (spriteRow (s.getV y))))

/-! ### Change record -/

/-- hasChanges() (R198). -/
def Dirty.hasChanges (d : Dirty) : Bool := d.whole || d.cells.anyCell

/-- The canonical cover: one 1 x 1 region per true cell, in row-major order (R199). -/
def canonicalCover (g : Grid) : List Region :=
  (List.range 32).flatMap fun y => (List.range 64).filterMap fun x => if g.cell x y then some ⟨x, y, 1, 1⟩ else none

/-- Whether a region list is a cover that R199 allows: rectangles inside the grid, every true cell in one of them, and no
region when no cell is true. -/
def coverAllowed (g : Grid) (l : List Region) : Bool :=
  l.all (·.inGrid) &&
  ((List.range 32).all fun y => (List.range 64).all fun x => !g.cell x y || l.any (·.covers x y)) &&
  (g.anyCell || l.isEmpty)

/-- REGION_COVER at the n-th render (R199, log 6): the free choice where it is a cover that R199 allows, else the canonical one. -/
def regionCover (n : Nat) (g : Grid) : List Region :=
  if coverAllowed g (Config.regionChoice n g) then Config.regionChoice n g else canonicalCover g

/-- The region list of takeChanges() at the n-th render (R199). -/
def Dirty.regions (d : Dirty) (n : Nat) : List Region := if d.whole then [⟨0, 0, 64, 32⟩] else regionCover n d.cells

/-- takeChanges() (R199): the region list, and DIRTY cleared. -/
def takeChanges (s : State) : List Region × State :=
  (s.dirty.regions s.renders.length, { s with dirty := ⟨false, Grid.clear⟩ })

end Sys2Proof.Machine
end

