-- ==== Sys2Proof/Machine/IndexMemory.lean ====
section
/-!
DEFINITION. 42_index_memory.md: the index register, decimal encoding and block transfer. The effective address of byte k is
I + k without reduction (R156); a transfer that leaves the address space keeps no effect (R153 to R155).
-/

namespace Sys2Proof.Machine

open Sys2Proof

/-- I <- value. -/
def State.setIndex (s : State) (i : Word) : State := { s with index := i }

/-- MEM <- m. -/
def State.setMem (s : State) (m : Memory) : State := { s with mem := m }

/-- LD I, NNN (R150). -/
def execLdI (nnn : Addr) (s : State) : Host.Outcome State Fault Refusal :=
  .next (s.advance.setIndex (nnn.setWidth 16))

/-- ADD I, VX (R151). -/
def execAddIX (x : Reg) (s : State) : Host.Outcome State Fault Refusal :=
  .next ((s.advance.setIndex (indexSum s.index (s.getV x))).setFlagIf s.qcfg.fx1eVf
    (indexOverflow s.index (s.getV x)))

/-- LD F, VX (R152). -/
def execLdFX (x : Reg) (s : State) : Host.Outcome State Fault Refusal :=
  .next (s.advance.setIndex (fontAddress (s.getV x)))

/-- LD B, VX (R153). -/
def execLdBX (x : Reg) (s : State) : Host.Outcome State Fault Refusal :=
  conclude (.ldBX x) s ((writeRun s.mem s.index.toNat (decimalDigits (s.getV x))).map s.advance.setMem)

/-- LD [I], VX (R154). -/
def execLdMemX (x : Reg) (s : State) : Host.Outcome State Fault Refusal :=
  conclude (.ldMemX x) s
    ((writeRun s.mem s.index.toNat (s.firstRegs x)).map fun m => (s.advance.setMem m).setIndex (s.indexAfterRun x))

/-- LD VX, [I] (R155). -/
def execLdXMem (x : Reg) (s : State) : Host.Outcome State Fault Refusal :=
  conclude (.ldXMem x) s
    ((readRun s.mem s.index.toNat (x.val + 1)).map fun bytes =>
      (s.advance.loadRegs bytes).setIndex (s.indexAfterRun x))

end Sys2Proof.Machine
end

