-- ==== Sys2Proof/Machine/Cpu.lean ====
section
/-!
DEFINITION. One CPU step (30_encoding.md R73): fetch, decode, execute; the non-fatal outcome of an unrecognized word (R81); and
the placing of one instruction where the next step fetches it, for the host's `State.withFetchWord`.
-/

namespace Sys2Proof.Machine

open Sys2Proof

/-- signal Unrecognized(w) (R81): the fetch's advance, and the event (pc, word) appended to UNREC; nothing else. -/
def State.signalUnrecognized (s : State) (w : Word) : State :=
  { s.advance with unrec := s.unrec ++ [⟨s.pc, w⟩] }

/-- Step() of R73 on a machine that is not halted. A fetch fault has no word (10_state.md R37, 60_exceptions.md R215). -/
def cpuStep (s : State) : Host.Outcome State Fault Refusal :=
  match fetch s.mem s.pc with
  | .error r => .next (s.fatalFault none r)
  | .ok w =>
    match decode w with
    | .unrecognized u => .next (s.signalUnrecognized u)
    | .instr i => exec i s

/-- The address the next instruction can be fetched from: PC, or PROG_BASE where PC is 0xFFF, at which no instruction can be
fetched (20_memory.md R55). -/
def State.fetchBase (s : State) : Addr := if s.pc = 0xFFF#12 then 0x200#12 else s.pc

/-- The phase in which the next driver step is a CPU step: the present one if it is that, else the one a poll of an unpaused
machine leads to (60 R224). -/
def State.runningPhase (s : State) : Phase :=
  match s.phase with
  | .execute n => .execute n
  | .poll => .execute (s.ipf - 1)
  | .present => .execute (s.ipf - 1)

/-- The word w placed at PC, with the machine about to take a CPU step: not halted, not paused, in the execute phase, the
driver's turn next (log 8). -/
def State.placeInstruction (s : State) (w : Word) : State :=
  let p := s.fetchBase
  { s with
    mem := Memory.write (Memory.write s.mem p.toNat (highByte w)) (p.toNat + 1) (lowByte w)
    pc := p
    phase := s.runningPhase
    turns := { s.turns with fixed := .driver :: s.turns.fixed }
    paused := false
    halted := false }

end Sys2Proof.Machine
end

