-- ==== Sys2Proof/Machine/Timer.lean ====
section
/-!
DEFINITION. The Timer Subsystem (60_exceptions.md R219 to R223). That no tick happens while HALTED is in `agentStep`.
-/

namespace Sys2Proof.Machine

open Sys2Proof

/-- One timer's count down: by 1 while it is above 0, never below (R219). -/
def countDown (t : Byte) : Byte := BitVec.ofNat 8 (t.toNat - 1)

/-- Tick() (R219). PAUSED and a waiting FX0A do not stop it (R223). -/
def tick (s : State) : State := { s with dt := countDown s.dt, st := countDown s.st }

end Sys2Proof.Machine
end

