-- ==== Sys2Proof/Machine/Driver.lean ====
section
/-!
DEFINITION. The Cycle Driver (60_exceptions.md R224 to R227) as atomic steps (R216), the choice of the agent that steps next
(R220, R222), and Frame() as R224 writes it, which the atomic steps refine.
-/

namespace Sys2Proof.Machine

open Sys2Proof

/-- The host's reply to the next poll (R228, log 5). -/
def State.nextReply (s : State) : PollReply := s.polls.peek Config.pollReply

/-- The input of one poll (R224): KEY is written whole, the pause toggle flips PAUSED (R226), a shutdown halts (R227). -/
def State.takeReply (s : State) (r : PollReply) : State :=
  { s with
    key := r.keys
    paused := if r.pauseToggle then !s.paused else s.paused
    halted := s.halted || r.shutdown }

/-- The poll phase (R224): one reply is taken. -/
def poll (s : State) : State := { s.takeReply s.nextReply with polls := s.polls.advance }

/-- The present phase (R224, R231): where there are changes, they and FB go to the render collaborator, and DIRTY is cleared
(44_display.md R199). -/
def present (s : State) : State :=
  if s.dirty.hasChanges then
    { (takeChanges s).2 with renders := s.renders ++ [⟨(takeChanges s).1, s.fb⟩] }
  else s

/-- The phase in which `left` CPU steps of the frame are still to come (R224, R225). -/
def Phase.afterBudget (left : Nat) : Phase :=
  match left with
  | 0 => .present
  | n + 1 => .execute n

/-- The phase after a poll (R224, R226): a paused machine executes nothing. -/
def State.phaseAfterPoll (s : State) : Phase := Phase.afterBudget (if s.paused then 0 else s.ipf)

/-- One atomic step of the Cycle Driver (R216, R224). -/
def driverStep (s : State) : Host.Outcome State Fault Refusal :=
  match s.phase with
  | .poll => .next { poll s with phase := (poll s).phaseAfterPoll }
  | .execute left => cpuStep { s with phase := Phase.afterBudget left }
  | .present => .next { present s with phase := .poll }

/-- The agent that steps next (R220, log 4). -/
def State.nextAgent (s : State) : Agent := s.turns.next

/-- The state after the schedule's choice has been taken. -/
def State.takeTurn (s : State) : State := { s with turns := s.turns.advance }

/-- One step of the machine: no agent steps while HALTED (10_state.md R36); else the agent whose turn it is. -/
def agentStep (s : State) : Host.Outcome State Fault Refusal :=
  if s.halted then .fault .halted
  else
    match s.nextAgent with
    | .timer => .next (tick s.takeTurn)
    | .driver => driverStep s.takeTurn

/-! ### Frame() as R224 writes it -/

/-- The execute phase: Step() up to n times, left when the machine halts (R224). -/
def executePhase (n : Nat) (s : State) : Host.Outcome State Fault Refusal :=
  match n with
  | 0 => .next s
  | k + 1 =>
    if s.halted then .next s
    else
      match cpuStep s with
      | .next t => executePhase k t
      | .fault r => .fault r
      | .refused r => .refused r

/-- Frame() (R224) with no tick inside it. -/
def frame (s : State) : Host.Outcome State Fault Refusal :=
  if s.halted then .next s
  else
    let s1 := poll s
    if s1.halted then .next s1
    else
      match executePhase (if s1.paused then 0 else s1.ipf) s1 with
      | .next t => .next (if t.halted then t else present t)
      | .fault r => .fault r
      | .refused r => .refused r

/-- The turns of the reference schedule LOCKSTEP for k frames of an unpaused machine (R220): the frame's poll, its `ipf` CPU
steps and its present, then one tick. -/
def lockstepTurns (ipf k : Nat) : List Agent :=
  match k with
  | 0 => []
  | n + 1 => List.replicate (ipf + 2) .driver ++ .timer :: lockstepTurns ipf n

end Sys2Proof.Machine
end

