-- ==== Sys2Proof/Machine/Load.lean ====
section
/-!
DEFINITION. Creation of the machine (70_reset_and_hazards.md R240) and LoadRom (20_memory.md R61), the LOAD input of
60_exceptions.md R228. They are host actions, not instructions.
-/

namespace Sys2Proof.Machine

open Sys2Proof

/-- LoadRom (20 R61): more than 3584 bytes fail with RomTooLarge, the ROM length recorded (60 R210), and nothing is written;
else the bytes stand at 0x200 and on. -/
def loadRom (m : Memory) (rom : List Byte) : Except Raise Memory :=
  if memSize - progBase < rom.length then .error ⟨.romTooLarge, rom.length⟩ else writeRun m progBase rom

/-- The created machine (70 R240): reset values and font, then QCFG and IPF as selected, then the ROM. An oversize ROM creates
no machine. -/
def State.create (q : Quirks) (ipf : Nat) (rom : List Byte) : Except Raise State :=
  (loadRom State.reset.mem rom).map fun m => { State.reset with qcfg := q, ipf := ipf, mem := m }

end Sys2Proof.Machine
end

