-- ==== Sys2Proof/Machine/Step.lean ====
section
/-!
DEFINITION. The machine's step, and the host's placing of an instruction where the next step fetches it.
-/

namespace Sys2Proof.Machine

open Sys2Proof

/-- One step of the machine: one atomic step of one agent (60_exceptions.md R216). -/
def step (s : State) : Host.Outcome State Fault Refusal := agentStep s

/-- s with the table's word w where the very next step fetches and runs it (log 8). -/
def State.withFetchWord (s : State) (nbits w : Nat) : State := s.placeInstruction (tableWord nbits w)

end Sys2Proof.Machine
end

