-- ==== Sys2Proof/Safety.lean ====
section
/-!
DEFINITION. The terms in which claims are made: what a step may leave changed, the sprite's footprint on the grid, the machine
invariant, and the end of a run (60_exceptions.md R235).
-/

namespace Sys2Proof.Machine

open Sys2Proof

/-! ### What is unchanged -/

/-- Every byte of memory reads as before. -/
def SameBytes (s t : State) : Prop := ∀ a : Nat, Memory.read t.mem a = Memory.read s.mem a

/-- Every register outside the list reads as before. -/
def SameRegsBut (written : List Reg) (s t : State) : Prop := ∀ r : Reg, r ∉ written → t.getV r = s.getV r

/-- Nothing has changed but PC, and the general registers in the list. -/
def ChangesOnlyRegs (written : List Reg) (s t : State) : Prop :=
  t = { s with v := t.v, pc := t.pc } ∧ SameRegsBut written s t ∧ SameBytes s t

/-- The general registers that an instruction may write, VX by R20 and VF by R22. -/
def MayWriteReg (s : State) (i : Instr) (r : Reg) : Prop :=
  match i with
  | .ldImm x _ | .addImm x _ | .ldReg x _ | .rnd x _ | .ldXDt x | .ldXK x => r = x
  | .or x _ | .and x _ | .xor x _ => r = x ∨ r = 15 ∧ s.qcfg.logicVfReset = true
  | .addReg x _ | .sub x _ | .shr x _ | .subn x _ | .shl x _ => r = x ∨ r = 15
  | .ldXMem x => r ≤ x
  | .addIX _ => r = 15 ∧ s.qcfg.fx1eVf = true
  | .drw _ _ _ => r = 15
  | _ => False

/-- The instructions that write PC beside the fetch's advance: the skips, the jumps, the call, the return and the key wait (R24). -/
def MayWritePc (i : Instr) : Prop :=
  match i with
  | .seImm _ _ | .sneImm _ _ | .seReg _ _ | .sneReg _ _ | .skp _ | .sknp _ => True
  | .jp _ | .call _ | .jpV0 _ | .ret | .ldXK _ => True
  | _ => False

/-- The instructions that may raise a fatal fault (R210, R211). -/
def MayRaise (i : Instr) : Prop :=
  match i with
  | .ret | .call _ | .ldBX _ | .ldMemX _ | .ldXMem _ | .drw _ _ _ => True
  | _ => False

/-- The fatal fault of R212 with the given record on the state before the fetch: nothing else has changed. -/
def FaultedBy (i : Instr) (k : ErrorKind) (info : Nat) (s t : State) : Prop :=
  t = { s with fault := some ⟨k, s.pc, some (encode i), info⟩, halted := true }

/-! ### The sprite's footprint (44_display.md R191, R193, R194) -/

/-- Whether a set bit of the sprite that DXYN draws in state s, with its coordinates vx and vy and its field n, lands on the
cell of column px and row py. -/
def SpriteHits (s : State) (vx vy : Byte) (n : Nibble) (px py : Nat) : Prop :=
  ∃ r c : Nat, r < n.toNat + (if s.qcfg.drawExtraRow then 1 else 0) ∧ c < 8 ∧
    (Memory.read s.mem (s.index.toNat + r)).getLsbD (7 - c) = true ∧
    (if s.qcfg.spriteWrap then (vx.toNat % 64 + c) % 64 = px ∧ (vy.toNat % 32 + r) % 32 = py
     else vx.toNat % 64 + c = px ∧ vy.toNat % 32 + r = py)

/-! ### The invariant -/

/-- What every run keeps true: memory is canonical; an idle key wait holds key 0 (43 R177); while a key wait is in its second
phase, PC points at its FX0A and VX holds the latched key (43 R177, R179); a FAULT record halts the machine and names a fatal
kind (60 R210, R212); a machine in its execute phase is not paused and is inside its budget (60 R224, R226); every UNREC event
holds a word of 30 R82 (10 R39); every render has a region, and all its regions lie in the grid (44 R199, 60 R231). -/
structure Inv (s : State) : Prop where
  memWf : Memory.wf s.mem
  idleKey : s.kw.phase = .idle → s.kw.key = 0
  waitAtFx0a : s.kw.phase = .waitRelease →
    ∃ x : Reg, fetch s.mem s.pc = .ok (encode (.ldXK x)) ∧ s.getV x = BitVec.ofNat 8 s.kw.key.val
  faultHalts : s.fault ≠ none → s.halted = true
  faultFatal : ∀ f : FaultRecord, s.fault = some f →
    f.kind = .addressOutOfRange ∨ f.kind = .stackOverflow ∨ f.kind = .stackUnderflow
  budget : ∀ n : Nat, s.phase = .execute n → s.paused = false ∧ n < s.ipf
  unrecListed : ∀ e ∈ s.unrec, wellFormedWord e.word = false
  rendersCover : ∀ r ∈ s.renders, r.regions ≠ [] ∧ ∀ g ∈ r.regions, g.inGrid = true

/-! ### The end of a run -/

/-- An ended run (R235): not halted, no fault, and the word at PC is 1NNN with NNN = PC. -/
def State.ended (s : State) : Bool :=
  !s.halted && s.fault.isNone && decide (s.pc.toNat + 1 < memSize) &&
  decide ((Memory.read s.mem s.pc.toNat).toNat = 0x10 ||| s.pc.toNat >>> 8) &&
  decide ((Memory.read s.mem (s.pc.toNat + 1)).toNat = s.pc.toNat &&& 0xFF)

end Sys2Proof.Machine
end

