-- ==== Sys2Proof/Certificates/Slice0/Obligations.lean ====
section
/-!
DEFINITION. The statements for the provers, in the order of spec/: encoding, the step, faults, then each family of instructions,
the timer and the Cycle Driver, reset, and the machine as a whole. A docstring names the rules, and for a clause that rests on a
decision (D<n>) or a general-knowledge passage of the spec, or on a choice of the model, the decision or the log entry.
-/

open Sys2Proof
open Sys2Proof.Machine

/-! ### Encoding and decode (30_encoding.md) -/

/-- R71, R72, R75, R78 (patterns: the spec's general knowledge, log 12). Decoding an encoded instruction gives it back, with
every operand value; and a word that decodes to an instruction is that instruction's encoding. -/
def Obligations.DecodeAndEncodeAgree : Prop :=
  (∀ i : Instr, decode (encode i) = .instr i) ∧ ∀ (w : Word) (i : Instr), decode w = .instr i → encode i = w

/-- R76, R82 (D14, D15; log 12). The decoder, written from R75, refuses exactly the words that the clauses of R82 list. -/
def Obligations.UnrecognizedWordsAreThoseListed : Prop :=
  ∀ w : Word, (decode w = .unrecognized w ↔ wellFormedWord w = false) ∧ ∀ u : Word, decode w = .unrecognized u → u = w

/-- R72. The five fields of a word, as numbers, and the zero extension of NNN into I. -/
def Obligations.FieldsAreUnsignedSlices : Prop :=
  ∀ w : Word,
    (fieldX w).val = w.toNat / 2 ^ 8 % 2 ^ 4 ∧ (fieldY w).val = w.toNat / 2 ^ 4 % 2 ^ 4 ∧
    (fieldN w).toNat = w.toNat % 2 ^ 4 ∧ (fieldNN w).toNat = w.toNat % 2 ^ 8 ∧
    (fieldNNN w).toNat = w.toNat % 2 ^ 12 ∧
    ∀ s : State, ∃ t, exec (.ldI (fieldNNN w)) s = .next t ∧ t.index.toNat = w.toNat % 2 ^ 12

/-- R78 and the vectors of 95_test_vectors.md. One word of every instruction, written out from its pattern. -/
def Obligations.SampleWordsDecode : Prop :=
  decode 0x00E0#16 = .instr .cls ∧ decode 0x00EE#16 = .instr .ret ∧ decode 0x1300#16 = .instr (.jp 0x300) ∧
  decode 0x2250#16 = .instr (.call 0x250) ∧ decode 0x3310#16 = .instr (.seImm 3 0x10) ∧
  decode 0x4311#16 = .instr (.sneImm 3 0x11) ∧ decode 0x5120#16 = .instr (.seReg 1 2) ∧
  decode 0x6AFF#16 = .instr (.ldImm 10 0xFF) ∧ decode 0x7F01#16 = .instr (.addImm 15 0x01) ∧
  decode 0x8120#16 = .instr (.ldReg 1 2) ∧ decode 0x8F21#16 = .instr (.or 15 2) ∧
  decode 0x8122#16 = .instr (.and 1 2) ∧ decode 0x8113#16 = .instr (.xor 1 1) ∧
  decode 0x81F4#16 = .instr (.addReg 1 15) ∧ decode 0x8125#16 = .instr (.sub 1 2) ∧
  decode 0x8126#16 = .instr (.shr 1 2) ∧ decode 0x8127#16 = .instr (.subn 1 2) ∧
  decode 0x812E#16 = .instr (.shl 1 2) ∧ decode 0x9120#16 = .instr (.sneReg 1 2) ∧
  decode 0xA050#16 = .instr (.ldI 0x050) ∧ decode 0xBF02#16 = .instr (.jpV0 0xF02) ∧
  decode 0xC30F#16 = .instr (.rnd 3 0x0F) ∧ decode 0xDF15#16 = .instr (.drw 15 1 5) ∧
  decode 0xE29E#16 = .instr (.skp 2) ∧ decode 0xE2A1#16 = .instr (.sknp 2) ∧ decode 0xF507#16 = .instr (.ldXDt 5) ∧
  decode 0xF30A#16 = .instr (.ldXK 3) ∧ decode 0xF015#16 = .instr (.ldDtX 0) ∧ decode 0xF118#16 = .instr (.ldStX 1) ∧
  decode 0xF21E#16 = .instr (.addIX 2) ∧ decode 0xF329#16 = .instr (.ldFX 3) ∧ decode 0xF033#16 = .instr (.ldBX 0) ∧
  decode 0xF255#16 = .instr (.ldMemX 2) ∧ decode 0xFF65#16 = .instr (.ldXMem 15)

/-! ### The step (30_encoding.md R73; 60_exceptions.md R216, R224) -/

/-- R52, R55 (D9, log 14). The word is big-endian; the second byte's address is not wrapped. -/
def Obligations.FetchReadsBigEndian : Prop :=
  ∀ (m : Memory) (pc : Addr),
    (pc.toNat + 1 < 4096 → ∃ w, fetch m pc = .ok w ∧
      w.toNat = (Memory.read m pc.toNat).toNat * 256 + (Memory.read m (pc.toNat + 1)).toNat) ∧
    (pc = 0xFFF#12 → fetch m pc = .error ⟨.addressOutOfRange, 0x1000⟩)

/-- R73, R224, R225. A step runs the decoded instruction: at the driver's turn in the execute phase, the step is exec of the
fetched instruction, with the budget counted down and the turn taken (log 7, 21). -/
def Obligations.StepRunsTheFetchedInstruction : Prop :=
  ∀ (s : State) (n : Nat) (w : Word) (i : Instr),
    s.halted = false → s.nextAgent = .driver → s.phase = .execute n →
    fetch s.mem s.pc = .ok w → decode w = .instr i →
    step s = exec i { s with phase := Phase.afterBudget n, turns := s.turns.advance }

/-- R81, R225 (D14). An unrecognized word advances PC, appends its event, counts against the budget, and does nothing else. -/
def Obligations.StepOnUnrecognizedWord : Prop :=
  ∀ (s : State) (n : Nat) (w : Word),
    s.halted = false → s.nextAgent = .driver → s.phase = .execute n →
    fetch s.mem s.pc = .ok w → wellFormedWord w = false →
    step s = .next { s with
      pc := s.pc + 2#12, unrec := s.unrec ++ [⟨s.pc, w⟩], phase := Phase.afterBudget n, turns := s.turns.advance }

/-- R55, R212 (D9, D28; log 9, 14). The fetch at 0xFFF faults, with no word in the record. -/
def Obligations.FetchAtTopOfMemoryFaults : Prop :=
  ∀ (s : State) (n : Nat),
    s.halted = false → s.nextAgent = .driver → s.phase = .execute n → s.pc = 0xFFF#12 →
    step s = .next { s with
      fault := some ⟨.addressOutOfRange, 0xFFF#12, none, 0x1000⟩, halted := true,
      phase := Phase.afterBudget n, turns := s.turns.advance }

/-- The model's own (log 8): the instruction the host places is fetched and run by the very next step, from the state's own
registers, at the state's PC or, where that is 0xFFF, at 0x200; no other byte of memory differs. -/
def Obligations.PlacedInstructionRunsNext : Prop :=
  ∀ (s : State) (i : Instr), ∃ u : State,
    step (s.withFetchWord 16 (encode i).toNat) = exec i u ∧
    u = { s with mem := u.mem, pc := u.pc, phase := u.phase, paused := false, halted := false } ∧
    u.pc = (if s.pc = 0xFFF#12 then 0x200#12 else s.pc) ∧ fetch u.mem u.pc = .ok (encode i) ∧
    ∀ a : Nat, a ≠ u.pc.toNat → a ≠ u.pc.toNat + 1 → Memory.read u.mem a = Memory.read s.mem a

/-! ### Halting and faults (10_state.md R36; 60_exceptions.md R210 to R215) -/

/-- R36. No agent steps while HALTED; HALTED becomes true on a fatal fault or on a shutdown, and nothing sets it back. -/
def Obligations.HaltedMachineNeverSteps : Prop :=
  (∀ s : State, s.halted = true → step s = .fault .halted) ∧
  ∀ s t : State, step s = .next t →
    s.halted = false ∧
    (t.halted = true →
      (∃ n f, s.phase = .execute n ∧ t.fault = some f ∧ f.pc = s.pc) ∨
      (s.phase = .poll ∧ s.nextReply.shutdown = true ∧ t.fault = s.fault)) ∧
    (t.fault ≠ s.fault → t.halted = true) ∧
    (s.nextAgent = .driver → s.phase = .poll → s.nextReply.shutdown = true → t.halted = true)

/-- R212 (D28, log 9). A fatal fault keeps nothing of its instruction: the state is the one before the fetch, but for FAULT and
HALTED. -/
def Obligations.FaultKeepsTheStateBefore : Prop :=
  ∀ (i : Instr) (s t : State), s.halted = false → exec i s = .next t → t.halted = true →
    ∃ k a, FaultedBy i k a s t

/-- R210, R211 (the codes 2, 3, 4: D29, log 10). Which instructions raise which fault, with the recorded info and code; no other
instruction raises one. -/
def Obligations.OnlyListedInstructionsFault : Prop :=
  ∀ (i : Instr) (s t : State), s.halted = false → exec i s = .next t → t.halted = true →
    match i with
    | .ret => s.sp.val = 0 ∧ t.fault = some ⟨.stackUnderflow, s.pc, some 0x00EE#16, 0⟩ ∧ t.fault.map (·.code) = some 4
    | .call nnn =>
      s.sp.val = 16 ∧ t.fault = some ⟨.stackOverflow, s.pc, some (encode (.call nnn)), 16⟩ ∧ t.fault.map (·.code) = some 3
    | .ldBX _ | .ldMemX _ | .ldXMem _ | .drw _ _ _ =>
      (∃ a, 4096 ≤ a ∧ t.fault = some ⟨.addressOutOfRange, s.pc, some (encode i), a⟩) ∧ t.fault.map (·.code) = some 2
    | _ => False

/-- R153, R154, R155, R193, R212, R215 (D21, D26, D28). A transfer or a sprite that leaves the address space faults with the
first address out of range, max(I, 4096), and changes nothing else. -/
def Obligations.AddressFaultReportsFirstBadAddress : Prop :=
  ∀ (s : State) (x y : Reg) (n : Nibble),
    (4096 ≤ s.index.toNat + 2 →
      ∃ t, exec (.ldBX x) s = .next t ∧ FaultedBy (.ldBX x) .addressOutOfRange (max s.index.toNat 4096) s t) ∧
    (4096 ≤ s.index.toNat + x.val →
      (∃ t, exec (.ldMemX x) s = .next t ∧ FaultedBy (.ldMemX x) .addressOutOfRange (max s.index.toNat 4096) s t) ∧
      ∃ t, exec (.ldXMem x) s = .next t ∧ FaultedBy (.ldXMem x) .addressOutOfRange (max s.index.toNat 4096) s t) ∧
    (n.toNat + (if s.qcfg.drawExtraRow then 1 else 0) ≠ 0 →
      4096 < s.index.toNat + (n.toNat + (if s.qcfg.drawExtraRow then 1 else 0)) →
      ∃ t, exec (.drw x y n) s = .next t ∧ FaultedBy (.drw x y n) .addressOutOfRange (max s.index.toNat 4096) s t)

/-! ### Control flow (40_control_flow.md) -/

/-- R102, R29 (D5: the popped entry is kept). RET with a stack that is not empty. -/
def Obligations.ReturnPopsTheStack : Prop :=
  ∀ s : State, 0 < s.sp.val →
    ∃ t, exec .ret s = .next t ∧ s.stack[s.sp.val - 1]? = some t.pc ∧ t.sp.val = s.sp.val - 1 ∧
      t = { s with pc := t.pc, sp := t.sp } ∧ SameBytes s t

/-- R104, R28 (the pushed address mod 4096: D13). CALL with a stack that is not full. -/
def Obligations.CallPushesTheReturnAddress : Prop :=
  ∀ (nnn : Addr) (s : State), s.sp.val < 16 →
    ∃ t, exec (.call nnn) s = .next t ∧ t.pc = nnn ∧ t.sp.val = s.sp.val + 1 ∧
      (∃ a, t.stack[s.sp.val]? = some a ∧ a.toNat = (s.pc.toNat + 2) % 4096) ∧
      (∀ j : Nat, j ≠ s.sp.val → t.stack[j]? = s.stack[j]?) ∧
      t = { s with pc := t.pc, sp := t.sp, stack := t.stack } ∧ SameBytes s t

/-- R28, R29, R102, R104, R212 (D28). RET with an empty stack and CALL with a full one fault, and keep nothing. -/
def Obligations.StackFaults : Prop :=
  ∀ (nnn : Addr) (s : State),
    (s.sp.val = 0 → ∃ t, exec .ret s = .next t ∧ FaultedBy .ret .stackUnderflow 0 s t) ∧
    (s.sp.val = 16 → ∃ t, exec (.call nnn) s = .next t ∧ FaultedBy (.call nnn) .stackOverflow 16 s t)

/-- R102, R104. A return from the state of the stack that a call left comes back to the word after the call, with SP as before
the call, whatever else the subroutine changed. -/
def Obligations.CallThenReturnComesBack : Prop :=
  ∀ (nnn : Addr) (s : State), s.sp.val < 16 →
    ∃ t, exec (.call nnn) s = .next t ∧
      ∀ u : State, u.stack = t.stack → u.sp = t.sp →
        ∃ r, exec .ret u = .next r ∧ r.pc = s.pc + 2#12 ∧ r.sp = s.sp

/-- R103, R105 (BNNN mod 4096: D13; patterns: log 12). The jumps. -/
def Obligations.JumpsSetThePc : Prop :=
  ∀ (nnn : Addr) (s : State),
    (∃ t, exec (.jp nnn) s = .next t ∧ t.pc = nnn ∧ ChangesOnlyRegs [] s t) ∧
    ∃ t, exec (.jpV0 nnn) s = .next t ∧ t.pc.toNat = (nnn.toNat + (s.getV 0).toNat) % 4096 ∧ ChangesOnlyRegs [] s t

/-- R101, R106, R107, R108, R109 (mod 4096: D13). The skips move PC by 4 when their condition holds and by 2 when not. -/
def Obligations.SkipsOnRegisters : Prop :=
  ∀ (x y : Reg) (nn : Byte) (s : State),
    ∀ p ∈ [(Instr.seImm x nn, decide ((s.getV x).toNat = nn.toNat)),
        (Instr.sneImm x nn, decide ((s.getV x).toNat ≠ nn.toNat)),
        (Instr.seReg x y, decide ((s.getV x).toNat = (s.getV y).toNat)),
        (Instr.sneReg x y, decide ((s.getV x).toNat ≠ (s.getV y).toNat))],
      ∃ t, exec p.1 s = .next t ∧ t.pc.toNat = (s.pc.toNat + (if p.2 then 4 else 2)) % 4096 ∧ ChangesOnlyRegs [] s t

/-! ### Register and ALU (41_register_alu.md, 10_state.md R21) -/

/-- R122. LD VX, NN. -/
def Obligations.LoadImmediate : Prop :=
  (∀ w : Word, w.toNat / 4096 = 0x6 → decode w = .instr (.ldImm (fieldX w) (fieldNN w))) ∧
  ∀ (x : Reg) (nn : Byte) (s : State),
    ∃ t, exec (.ldImm x nn) s = .next t ∧ t.getV x = nn ∧ t.pc = s.pc + 2#12 ∧ ChangesOnlyRegs [x] s t

/-- R123. ADD VX, NN: wraps, and writes no flag. -/
def Obligations.AddImmediateWithoutFlag : Prop :=
  (∀ w : Word, w.toNat / 4096 = 0x7 → decode w = .instr (.addImm (fieldX w) (fieldNN w))) ∧
  ∀ (x : Reg) (nn : Byte) (s : State),
    ∃ t, exec (.addImm x nn) s = .next t ∧ (t.getV x).toNat = ((s.getV x).toNat + nn.toNat) % 256 ∧
      t.pc = s.pc + 2#12 ∧ ChangesOnlyRegs [x] s t

/-- R124. LD VX, VY: no flag under any quirk. -/
def Obligations.CopyRegister : Prop :=
  ∀ (x y : Reg) (s : State),
    ∃ t, exec (.ldReg x y) s = .next t ∧ t.getV x = s.getV y ∧ t.pc = s.pc + 2#12 ∧ ChangesOnlyRegs [x] s t

/-- R125, R126, R127. OR, AND, XOR; under Q_LOGIC_VF_RESET VF ends 0, and with X = 15 the result is lost. -/
def Obligations.LogicOperations : Prop :=
  ∀ (x y : Reg) (s : State),
    ∀ p ∈ [(Instr.or x y, s.getV x ||| s.getV y), (Instr.and x y, s.getV x &&& s.getV y),
        (Instr.xor x y, s.getV x ^^^ s.getV y)],
      ∃ t, exec p.1 s = .next t ∧ t.pc = s.pc + 2#12 ∧
        (if s.qcfg.logicVfReset then t.getV 15 = 0#8 ∧ (x ≠ 15 → t.getV x = p.2) ∧ ChangesOnlyRegs [x, 15] s t
         else t.getV x = p.2 ∧ ChangesOnlyRegs [x] s t)

/-- R128. ADD VX, VY: carry in VF. -/
def Obligations.AddWithCarry : Prop :=
  ∀ (x y : Reg) (s : State),
    ∃ t, exec (.addReg x y) s = .next t ∧ t.pc = s.pc + 2#12 ∧
      (x ≠ 15 → (t.getV x).toNat = ((s.getV x).toNat + (s.getV y).toNat) % 256) ∧
      t.getV 15 = (if (s.getV x).toNat + (s.getV y).toNat > 255 then 1#8 else 0#8) ∧ ChangesOnlyRegs [x, 15] s t

/-- R129, R131 (the results mod 256: D17). SUB and SUBN: no borrow in VF. -/
def Obligations.SubtractBothWays : Prop :=
  ∀ (x y : Reg) (s : State),
    ∀ p ∈ [(Instr.sub x y, (s.getV x).toNat, (s.getV y).toNat), (Instr.subn x y, (s.getV y).toNat, (s.getV x).toNat)],
      ∃ t, exec p.1 s = .next t ∧ t.pc = s.pc + 2#12 ∧
        (x ≠ 15 → ((t.getV x).toNat : Int) = ((p.2.1 : Int) - (p.2.2 : Int)) % 256) ∧
        t.getV 15 = (if p.2.1 ≥ p.2.2 then 1#8 else 0#8) ∧ ChangesOnlyRegs [x, 15] s t

/-- R130, R132 (the results mod 256: D17). SHR and SHL by 1, of VY under Q_SHIFT_VY and of VX without it; VF takes the bit
shifted out. -/
def Obligations.ShiftsByOne : Prop :=
  ∀ (x y : Reg) (s : State) (src : Nat), src = (if s.qcfg.shiftVy then s.getV y else s.getV x).toNat →
    (∃ t, exec (.shr x y) s = .next t ∧ t.pc = s.pc + 2#12 ∧
      (x ≠ 15 → (t.getV x).toNat = src / 2) ∧ (t.getV 15).toNat = src % 2 ∧ ChangesOnlyRegs [x, 15] s t) ∧
    ∃ t, exec (.shl x y) s = .next t ∧ t.pc = s.pc + 2#12 ∧
      (x ≠ 15 → (t.getV x).toNat = src * 2 % 256) ∧ (t.getV 15).toNat = src / 128 ∧ ChangesOnlyRegs [x, 15] s t

/-- R21. With X = 15, VF ends holding the flag, computed from the operands as they were before any write. -/
def Obligations.FlagWinsOverResult : Prop :=
  ∀ (y : Reg) (s : State) (a b src : Nat), a = (s.getV 15).toNat → b = (s.getV y).toNat →
    src = (if s.qcfg.shiftVy then b else a) →
    (∀ p ∈ [(Instr.addReg 15 y, if a + b > 255 then 1 else 0), (Instr.sub 15 y, if a ≥ b then 1 else 0),
        (Instr.subn 15 y, if b ≥ a then 1 else 0), (Instr.shr 15 y, src % 2), (Instr.shl 15 y, src / 128)],
      ∃ t, exec p.1 s = .next t ∧ (t.getV 15).toNat = p.2) ∧
    (s.qcfg.logicVfReset = true →
      ∀ i ∈ [Instr.or 15 y, Instr.and 15 y, Instr.xor 15 y], ∃ t, exec i s = .next t ∧ t.getV 15 = 0#8)

/-! ### Index and memory (42_index_memory.md) -/

/-- R150. LD I, NNN. -/
def Obligations.LoadIndex : Prop :=
  (∀ w : Word, w.toNat / 4096 = 0xA → decode w = .instr (.ldI (fieldNNN w))) ∧
  ∀ (nnn : Addr) (s : State),
    ∃ t, exec (.ldI nnn) s = .next t ∧ t.index.toNat = nnn.toNat ∧ t.pc = s.pc + 2#12 ∧
      t = { s with index := t.index, pc := t.pc } ∧ SameBytes s t

/-- R151 (width of I: D4; VF <- 0 with no overflow: D19). ADD I, VX; VF from the unreduced sum under Q_FX1E_VF. -/
def Obligations.AddToIndex : Prop :=
  ∀ (x : Reg) (s : State) (sum : Nat), sum = s.index.toNat + (s.getV x).toNat →
    ∃ t, exec (.addIX x) s = .next t ∧ t.index.toNat = sum % 65536 ∧ t.pc = s.pc + 2#12 ∧
      (if s.qcfg.fx1eVf then t.getV 15 = (if sum ≥ 4096 then 1#8 else 0#8) ∧ SameRegsBut [15] s t else t.v = s.v) ∧
      t = { s with v := t.v, index := t.index, pc := t.pc } ∧ SameBytes s t

/-- R152. LD F, VX: the glyph of the low nibble; always in 0x050 to 0x09B. -/
def Obligations.FontAddressOfDigit : Prop :=
  (∀ w : Word, w.toNat / 4096 = 0xF → w.toNat % 256 = 0x29 → decode w = .instr (.ldFX (fieldX w))) ∧
  ∀ (x : Reg) (s : State),
    ∃ t, exec (.ldFX x) s = .next t ∧ t.index.toNat = 0x050 + 5 * ((s.getV x).toNat % 16) ∧
      0x050 ≤ t.index.toNat ∧ t.index.toNat ≤ 0x09B ∧ t.pc = s.pc + 2#12 ∧
      t = { s with index := t.index, pc := t.pc } ∧ SameBytes s t

/-- R153 (I unchanged: D18). LD B, VX: hundreds, tens, ones at I, I + 1, I + 2. -/
def Obligations.DecimalDigitsAreStored : Prop :=
  ∀ (x : Reg) (s : State), s.index.toNat + 2 < 4096 →
    ∃ t, exec (.ldBX x) s = .next t ∧ t.pc = s.pc + 2#12 ∧
      (Memory.read t.mem s.index.toNat).toNat = (s.getV x).toNat / 100 ∧
      (Memory.read t.mem (s.index.toNat + 1)).toNat = (s.getV x).toNat / 10 % 10 ∧
      (Memory.read t.mem (s.index.toNat + 2)).toNat = (s.getV x).toNat % 10 ∧
      (∀ a : Nat, a < s.index.toNat ∨ s.index.toNat + 2 < a → Memory.read t.mem a = Memory.read s.mem a) ∧
      t = { s with mem := t.mem, pc := t.pc }

/-- R154 (increment by X + 1: D20). LD [I], VX. -/
def Obligations.BlockStore : Prop :=
  ∀ (x : Reg) (s : State), s.index.toNat + x.val < 4096 →
    ∃ t, exec (.ldMemX x) s = .next t ∧ t.pc = s.pc + 2#12 ∧
      (∀ k : Reg, k ≤ x → Memory.read t.mem (s.index.toNat + k.val) = s.getV k) ∧
      (∀ a : Nat, a < s.index.toNat ∨ s.index.toNat + x.val < a → Memory.read t.mem a = Memory.read s.mem a) ∧
      t.index.toNat = (if s.qcfg.memIncI then (s.index.toNat + x.val + 1) % 65536 else s.index.toNat) ∧
      t = { s with mem := t.mem, index := t.index, pc := t.pc }

/-- R155 (increment by X + 1: D20). LD VX, [I]. -/
def Obligations.BlockLoad : Prop :=
  ∀ (x : Reg) (s : State), s.index.toNat + x.val < 4096 →
    ∃ t, exec (.ldXMem x) s = .next t ∧ t.pc = s.pc + 2#12 ∧
      (∀ k : Reg, k ≤ x → t.getV k = Memory.read s.mem (s.index.toNat + k.val)) ∧
      (∀ k : Reg, x < k → t.getV k = s.getV k) ∧
      t.index.toNat = (if s.qcfg.memIncI then (s.index.toNat + x.val + 1) % 65536 else s.index.toNat) ∧
      t = { s with v := t.v, index := t.index, pc := t.pc } ∧ SameBytes s t

/-- R52, R66, R154 (D10). A word that FX55 stores is what the next fetch at its address reads. -/
def Obligations.StoredWordIsFetched : Prop :=
  ∀ (x : Reg) (s : State) (p : Addr), s.index.toNat + x.val < 4096 → 1 ≤ x.val → p.toNat = s.index.toNat →
    ∃ t w, exec (.ldMemX x) s = .next t ∧ fetch t.mem p = .ok w ∧
      w.toNat = (s.getV 0).toNat * 256 + (s.getV 1).toNat

/-! ### Random, timers and keypad (43_random_timer_keypad.md) -/

/-- R170 (D22: the draw is a free value, log 3). RND VX, NN, for whatever byte the oracle gives; the next draw is a fresh one. -/
def Obligations.RandomByteUnderMask : Prop :=
  ∀ (x : Reg) (nn : Byte) (s : State),
    ∃ t, exec (.rnd x nn) s = .next t ∧ t.getV x = s.nextDraw &&& nn ∧ (nn = 0#8 → t.getV x = 0#8) ∧
      t.rng = s.rng.advance ∧ t.pc = s.pc + 2#12 ∧ SameRegsBut [x] s t ∧
      t = { s with v := t.v, pc := t.pc, rng := t.rng } ∧ SameBytes s t

/-- R171, R172, R173, R221 (GATE: D31). The timer registers. -/
def Obligations.TimerRegisterInstructions : Prop :=
  ∀ (x : Reg) (s : State),
    (∃ t, exec (.ldXDt x) s = .next t ∧ t.getV x = s.dt ∧ t.pc = s.pc + 2#12 ∧ ChangesOnlyRegs [x] s t) ∧
    (∃ t, exec (.ldDtX x) s = .next t ∧ t.dt = s.getV x ∧ t.pc = s.pc + 2#12 ∧
      t = { s with dt := t.dt, pc := t.pc } ∧ SameBytes s t) ∧
    ∃ t, exec (.ldStX x) s = .next t ∧ t.st = s.getV x ∧ t.gate = decide ((s.getV x).toNat ≠ 0) ∧
      t.pc = s.pc + 2#12 ∧ t = { s with st := t.st, pc := t.pc } ∧ SameBytes s t

/-- R174, R175, R176 (values of 16 and more: D24). The keypad skips. -/
def Obligations.SkipsOnKeys : Prop :=
  ∀ (x : Reg) (s : State) (down : Bool),
    (∀ k : Key, (s.getV x).toNat = k.val → s.key[k] = down) → (16 ≤ (s.getV x).toNat → down = false) →
    (∃ t, exec (.skp x) s = .next t ∧ t.pc.toNat = (s.pc.toNat + (if down then 4 else 2)) % 4096 ∧
      ChangesOnlyRegs [] s t) ∧
    ∃ t, exec (.sknp x) s = .next t ∧ t.pc.toNat = (s.pc.toNat + (if down then 2 else 4)) % 4096 ∧
      ChangesOnlyRegs [] s t

/-- R177 (the least key: D23; mod 4096: D13), phase IDLE: with no key pressed nothing changes, PC included; else the least
pressed key is latched into VX and KW, and PC stays at the FX0A. -/
def Obligations.KeyWaitScansForAPress : Prop :=
  ∀ (x : Reg) (s : State), s.kw.phase = .idle →
    ((∀ k : Key, s.key[k] = false) → exec (.ldXK x) s = .next s) ∧
    ∀ k : Key, s.key[k] = true → (∀ j : Key, j < k → s.key[j] = false) →
      ∃ t, exec (.ldXK x) s = .next t ∧ (t.getV x).toNat = k.val ∧ t.kw = ⟨.waitRelease, k⟩ ∧ t.pc = s.pc ∧
        SameRegsBut [x] s t ∧ t = { s with v := t.v, kw := t.kw } ∧ SameBytes s t

/-- R177, phase WAIT_RELEASE: nothing changes while the latched key is held; its release ends the wait. -/
def Obligations.KeyWaitEndsOnRelease : Prop :=
  ∀ (x : Reg) (s : State), s.kw.phase = .waitRelease →
    (s.key[s.kw.key] = true → exec (.ldXK x) s = .next s) ∧
    (s.key[s.kw.key] = false → exec (.ldXK x) s = .next { s with kw := ⟨.idle, 0⟩, pc := s.pc + 2#12 })

/-! ### Display (44_display.md) -/

/-- R192, R197. CLS: every cell off, the whole grid dirty, the cell mask as it was. -/
def Obligations.ClearScreen : Prop :=
  decode 0x00E0#16 = .instr .cls ∧
  ∀ s : State,
    ∃ t, exec .cls s = .next t ∧ (∀ x y : Nat, t.fb.cell x y = false) ∧ t.dirty.whole = true ∧
      t.dirty.cells = s.dirty.cells ∧ t.pc = s.pc + 2#12 ∧ t = { s with fb := t.fb, dirty := t.dirty, pc := t.pc } ∧
      SameBytes s t

/-- R193, R194, R196 (VX and VY before VF: D25; N = 0: D26; the record: D27; the sprite's bit order: log 16). DRW flips exactly
the cells that a set sprite bit lands on, records them, and writes VF as the collision flag. -/
def Obligations.DrawFlipsTheSpriteCells : Prop :=
  ∀ (x y : Reg) (n : Nibble) (s : State) (rows : Nat), rows = n.toNat + (if s.qcfg.drawExtraRow then 1 else 0) →
    (rows = 0 ∨ s.index.toNat + rows ≤ 4096) →
    ∃ t, exec (.drw x y n) s = .next t ∧ t.pc = s.pc + 2#12 ∧
      (∀ px py : Nat, px < 64 → py < 32 →
        (SpriteHits s (s.getV x) (s.getV y) n px py →
          t.fb.cell px py = !s.fb.cell px py ∧ t.dirty.cells.cell px py = true) ∧
        (¬ SpriteHits s (s.getV x) (s.getV y) n px py →
          t.fb.cell px py = s.fb.cell px py ∧ t.dirty.cells.cell px py = s.dirty.cells.cell px py)) ∧
      ((∃ px py : Nat, px < 64 ∧ py < 32 ∧ SpriteHits s (s.getV x) (s.getV y) n px py ∧ s.fb.cell px py = true) →
        t.getV 15 = 1#8) ∧
      ((¬ ∃ px py : Nat, px < 64 ∧ py < 32 ∧ SpriteHits s (s.getV x) (s.getV y) n px py ∧ s.fb.cell px py = true) →
        t.getV 15 = 0#8) ∧
      t.dirty.whole = s.dirty.whole ∧ SameRegsBut [15] s t ∧
      t = { s with v := t.v, pc := t.pc, fb := t.fb, dirty := t.dirty } ∧ SameBytes s t

/-- R195. After a draw VF is 1 exactly when some cell went from on to off, and 0 otherwise. -/
def Obligations.CollisionMeansACellWentOff : Prop :=
  ∀ (x y : Reg) (n : Nibble) (s t : State), exec (.drw x y n) s = .next t → s.halted = false → t.halted = false →
    (t.getV 15 = 1#8 ↔ ∃ px py : Nat, s.fb.cell px py = true ∧ t.fb.cell px py = false) ∧
    (t.getV 15 = 0#8 ↔ ¬ ∃ px py : Nat, s.fb.cell px py = true ∧ t.fb.cell px py = false)

/-- R193. The same draw made twice restores the framebuffer, where VF is neither coordinate. -/
def Obligations.DrawTwiceErases : Prop :=
  ∀ (x y : Reg) (n : Nibble) (s t u r : State), x ≠ 15 → y ≠ 15 → s.halted = false →
    exec (.drw x y n) s = .next t → t.halted = false → u = { t with pc := u.pc } →
    exec (.drw x y n) u = .next r → r.fb = s.fb

/-- R198. hasChanges(). -/
def Obligations.HasChangesReadsTheRecord : Prop :=
  ∀ d : Dirty, d.hasChanges = true ↔ d.whole = true ∨ ∃ x y : Nat, x < 64 ∧ y < 32 ∧ d.cells.cell x y = true

/-! ### Timer and Cycle Driver (60_exceptions.md) -/

/-- R219, R221 (GATE: D31). At the Timer's turn each timer counts down by 1 and stops at 0, and nothing else changes but the
turn taken; a halted machine has no tick. -/
def Obligations.TickCountsBothTimersDown : Prop :=
  ∀ s : State, s.nextAgent = .timer →
    (s.halted = true → step s = .fault .halted) ∧
    (s.halted = false → ∃ t, step s = .next t ∧ t.dt.toNat = s.dt.toNat - 1 ∧ t.st.toNat = s.st.toNat - 1 ∧
      t.gate = decide (1 < s.st.toNat) ∧ t = { s with dt := t.dt, st := t.st, turns := s.turns.advance })

/-- R222 (D32). DT, ST and GATE are all that the CPU and the Timer share: a tick and any instruction but FX07, FX15 and FX18
commute. -/
def Obligations.TickCommutesWithOtherInstructions : Prop :=
  ∀ (i : Instr) (s t : State), (∀ x : Reg, i ≠ .ldXDt x ∧ i ≠ .ldDtX x ∧ i ≠ .ldStX x) →
    exec i s = .next t → exec i (tick s) = .next (tick t)

/-- R220, R246 (fairness of both agents; the free rounds: log 4). From every state, after at most the turns already fixed, the
round in hand and the next round's leading ticks, a machine that has not stopped is at the given agent's turn; so ticks keep
coming, and so do the driver's turns. -/
def Obligations.TicksKeepComing : Prop :=
  ∀ (s : State) (a : Agent), ∃ k : Nat,
    k ≤ s.turns.fixed.length + s.turns.beforeLast + 1 + Config.leadTicks (s.turns.round + 1) ∧
    ∀ t : State, Host.Core.run Sys2Proof.core k s = .next t → t.nextAgent = a

/-- R224, R225, R226, R228 (D34; phases: log 7). The poll phase writes KEY, PAUSED and HALTED from the host's reply, and leads to
the execute phase with its budget, or past it when paused. -/
def Obligations.PollTakesTheReply : Prop :=
  ∀ s : State, s.halted = false → s.nextAgent = .driver → s.phase = .poll →
    ∃ t, step s = .next t ∧ t.key = s.nextReply.keys ∧
      t.paused = (if s.nextReply.pauseToggle then !s.paused else s.paused) ∧ t.halted = s.nextReply.shutdown ∧
      t.polls = s.polls.advance ∧ t.turns = s.turns.advance ∧
      (t.paused = true → t.phase = .present) ∧ (t.paused = false → 1 ≤ s.ipf → t.phase = .execute (s.ipf - 1)) ∧
      t = { s with
        key := t.key, paused := t.paused, halted := t.halted, polls := t.polls, turns := t.turns, phase := t.phase }

/-- R227. A shutdown at a poll halts the machine; nothing is rolled back, FAULT stays as it was, and no agent steps again. -/
def Obligations.ShutdownHalts : Prop :=
  ∀ s : State, s.halted = false → s.nextAgent = .driver → s.phase = .poll → s.nextReply.shutdown = true →
    ∃ t, step s = .next t ∧ t.halted = true ∧ step t = .fault .halted ∧ (s.fault = none → t.fault = none) ∧
      t = { s with
        key := t.key, paused := t.paused, halted := t.halted, polls := t.polls, turns := t.turns, phase := t.phase }

/-- R199, R224, R231 (D27; REGION_COVER is a free value, log 6). The present phase hands FB and a region list to the render
collaborator where there are changes, and clears DIRTY; the list lies in the grid and covers every changed cell. -/
def Obligations.PresentHandsOutTheChanges : Prop :=
  ∀ s : State, s.halted = false → s.nextAgent = .driver → s.phase = .present →
    (s.dirty.hasChanges = false → step s = .next { s with phase := .poll, turns := s.turns.advance }) ∧
    (s.dirty.hasChanges = true → ∃ regions : List Region,
      step s = .next { s with
        phase := .poll, turns := s.turns.advance, dirty := ⟨false, Grid.clear⟩,
        renders := s.renders ++ [⟨regions, s.fb⟩] } ∧
      (s.dirty.whole = true → regions = [⟨0, 0, 64, 32⟩]) ∧ (∀ r ∈ regions, r.inGrid = true) ∧
      ∀ x y : Nat, x < 64 → y < 32 → (s.dirty.whole = true ∨ s.dirty.cells.cell x y = true) →
        ∃ r ∈ regions, r.covers x y = true)

/-- R216, R224, R225. Frame() as R224 writes it is refined by the machine's atomic steps: with the driver taking every turn, the
poll, the budget of CPU steps and the present lead to the state that Frame() gives, where it does not halt. -/
def Obligations.FrameIsItsAtomicSteps : Prop :=
  ∀ (s t : State) (k : Nat) (rest : List Agent),
    s.halted = false → s.phase = .poll → k = (if (poll s).paused then 0 else s.ipf) + 2 →
    s.turns.fixed = List.replicate k .driver ++ rest → frame s = .next t → t.halted = false →
    Host.Core.run Sys2Proof.core k s = .next { t with turns := { s.turns with fixed := rest }, phase := .poll }

/-! ### Creation (70_reset_and_hazards.md, 10_state.md R40) -/

/-- R40, R59 (D7; font bytes: log 13). The state after reset, in the values the spec gives. -/
def Obligations.ResetState : Prop :=
  (∀ r : Reg, State.reset.getV r = 0x00#8) ∧ State.reset.index = 0x0000#16 ∧ State.reset.pc = 0x200#12 ∧
  State.reset.sp.val = 0 ∧ (∀ j : Fin 16, State.reset.stack[j] = 0x000#12) ∧ State.reset.dt = 0#8 ∧
  State.reset.st = 0#8 ∧ State.reset.gate = false ∧ (∀ x y : Nat, State.reset.fb.cell x y = false) ∧
  (∀ k : Key, State.reset.key[k] = false) ∧ State.reset.kw = ⟨.idle, 0⟩ ∧ State.reset.dirty.whole = false ∧
  (∀ x y : Nat, State.reset.dirty.cells.cell x y = false) ∧ State.reset.paused = false ∧ State.reset.halted = false ∧
  State.reset.fault = none ∧ State.reset.unrec = [] ∧
  (∀ a : Nat, a < 0x050 ∨ 0x0A0 ≤ a → Memory.read State.reset.mem a = 0x00#8) ∧
  (List.range 5).map (fun k => Memory.read State.reset.mem (0x050 + k)) = [0xF0#8, 0x90#8, 0x90#8, 0x90#8, 0xF0#8] ∧
  (List.range 5).map (fun k => Memory.read State.reset.mem (0x09B + k)) = [0xF0#8, 0x80#8, 0xF0#8, 0x80#8, 0x80#8]

/-- R61, R240, R210 (offset: D12). LOAD: an oversize ROM creates no machine; else its bytes stand at 0x200, every other byte and
all other state is as after reset, and QCFG and IPF are those selected. -/
def Obligations.CreateLoadsTheRom : Prop :=
  ∀ (q : Quirks) (ipf : Nat) (rom : List Byte),
    (3584 < rom.length → State.create q ipf rom = .error ⟨.romTooLarge, rom.length⟩) ∧
    (rom.length ≤ 3584 → ∃ s, State.create q ipf rom = .ok s ∧
      (∀ (k : Nat) (h : k < rom.length), Memory.read s.mem (0x200 + k) = rom[k]) ∧
      (∀ a : Nat, a < 0x200 ∨ 0x200 + rom.length ≤ a → Memory.read s.mem a = Memory.read State.reset.mem a) ∧
      s = { State.reset with qcfg := q, ipf := ipf, mem := s.mem })

/-! ### The machine as a whole -/

/-- R20, R22, R24, R25, R26, R30, R31, R33, R34, R35, R79, R211 (D18). Each piece of state is changed by the instructions the
spec names for it, and by no other; PC, which every instruction advances, is set otherwise only by those of R24 or a fault. -/
def Obligations.OnlyTheirInstructionsWrite : Prop :=
  ∀ (i : Instr) (s t : State), exec i s = .next t →
    (∀ r : Reg, t.getV r ≠ s.getV r → MayWriteReg s i r) ∧
    (t.pc ≠ s.pc + 2#12 → MayWritePc i ∨ t.halted = true) ∧
    (t.halted ≠ s.halted → MayRaise i) ∧ (t.fault ≠ s.fault → MayRaise i) ∧
    (t.fb ≠ s.fb → i = .cls ∨ ∃ x y n, i = .drw x y n) ∧
    (t.dirty ≠ s.dirty → i = .cls ∨ ∃ x y n, i = .drw x y n) ∧
    (t.stack ≠ s.stack → ∃ nnn, i = .call nnn) ∧
    (t.sp ≠ s.sp → i = .ret ∨ ∃ nnn, i = .call nnn) ∧
    (t.mem ≠ s.mem → ∃ x, i = .ldBX x ∨ i = .ldMemX x) ∧
    (t.index ≠ s.index → (∃ nnn, i = .ldI nnn) ∨ ∃ x, i = .addIX x ∨ i = .ldFX x ∨
      ((i = .ldMemX x ∨ i = .ldXMem x) ∧ s.qcfg.memIncI = true)) ∧
    (t.dt ≠ s.dt → ∃ x, i = .ldDtX x) ∧ (t.st ≠ s.st → ∃ x, i = .ldStX x) ∧
    (t.kw ≠ s.kw → ∃ x, i = .ldXK x) ∧ (t.rng ≠ s.rng → ∃ x nn, i = .rnd x nn) ∧
    t.key = s.key ∧ t.qcfg = s.qcfg ∧ t.paused = s.paused ∧ t.ipf = s.ipf ∧ t.unrec = s.unrec ∧
    t.renders = s.renders ∧ t.phase = s.phase ∧ t.turns = s.turns ∧ t.polls = s.polls

/-- R57, R222, R224. What a step of the other agents and phases may touch: the Timer DT and ST, a poll KEY, PAUSED and HALTED, a
present DIRTY and the render stream; the rest is bookkeeping of the schedule (log 4, 5, 7). -/
def Obligations.AgentsTouchOnlyTheirState : Prop :=
  ∀ s t : State, step s = .next t →
    (s.nextAgent = .timer → t = { s with dt := t.dt, st := t.st, turns := t.turns }) ∧
    (s.nextAgent = .driver → s.phase = .poll → t = { s with
      key := t.key, paused := t.paused, halted := t.halted, polls := t.polls, phase := t.phase, turns := t.turns }) ∧
    (s.nextAgent = .driver → s.phase = .present → t = { s with
      dirty := t.dirty, renders := t.renders, phase := t.phase, turns := t.turns })

/-- R32, R33. No instruction but DXYN and 00E0 reads or writes FB or DIRTY: what it does is the same whatever they hold. -/
def Obligations.DisplayIsInvisibleToOtherInstructions : Prop :=
  ∀ (i : Instr) (s t : State) (g : Grid) (d : Dirty), i ≠ .cls → (∀ x y n, i ≠ .drw x y n) →
    exec i s = .next t → exec i { s with fb := g, dirty := d } = .next { t with fb := g, dirty := d }

/-- R24. Every way in which PC changes: at an instruction, at an unrecognized word, at a fetch fault, and not at all in any other
step. -/
def Obligations.PcChangesOnlyAsListed : Prop :=
  (∀ (i : Instr) (s t : State), s.halted = false → exec i s = .next t →
    if t.halted then t.pc = s.pc
    else
      match i with
      | .seImm x nn => t.pc = (if s.getV x = nn then s.pc + 2#12 + 2#12 else s.pc + 2#12)
      | .sneImm x nn => t.pc = (if s.getV x ≠ nn then s.pc + 2#12 + 2#12 else s.pc + 2#12)
      | .seReg x y => t.pc = (if s.getV x = s.getV y then s.pc + 2#12 + 2#12 else s.pc + 2#12)
      | .sneReg x y => t.pc = (if s.getV x ≠ s.getV y then s.pc + 2#12 + 2#12 else s.pc + 2#12)
      | .skp x => t.pc = (if s.pressed (s.getV x) then s.pc + 2#12 + 2#12 else s.pc + 2#12)
      | .sknp x => t.pc = (if s.pressed (s.getV x) then s.pc + 2#12 else s.pc + 2#12 + 2#12)
      | .jp nnn | .call nnn => t.pc = nnn
      | .jpV0 nnn => t.pc = nnn + (s.getV 0).setWidth 12
      | .ret => s.stack[s.sp.val - 1]? = some t.pc
      | .ldXK _ =>
        t.pc = (if s.kw.phase = .idle ∨ s.key[s.kw.key] = true then s.pc + 2#12 - 2#12 else s.pc + 2#12)
      | _ => t.pc = s.pc + 2#12) ∧
  (∀ s t : State, cpuStep s = .next t →
    (∀ w, fetch s.mem s.pc = .ok w → decode w = .unrecognized w → t.pc = s.pc + 2#12) ∧
    (∀ r, fetch s.mem s.pc = .error r → t.pc = s.pc)) ∧
  ∀ s t : State, step s = .next t → s.nextAgent = .timer ∨ s.phase = .poll ∨ s.phase = .present → t.pc = s.pc

/-- R235 (D35). At an ended run a CPU step changes nothing. -/
def Obligations.EndedRunStaysEnded : Prop := ∀ s : State, s.ended = true → cpuStep s = .next s

/-- R40, R240. The invariant holds at reset and after the creation of any machine. -/
def Obligations.InvHoldsAtCreation : Prop :=
  Inv State.reset ∧
  ∀ (q : Quirks) (ipf : Nat) (rom : List Byte) (s : State), State.create q ipf rom = .ok s → Inv s

/-- R39, R177, R179, R199, R210, R212, R224. Every step keeps the invariant: canonical memory, the key wait at its FX0A with the
latched key in VX, a fatal kind in FAULT and the machine halted with it, the frame's budget, the UNREC and RENDER streams. -/
def Obligations.StepKeepsInv : Prop := ∀ s t : State, Inv s → step s = .next t → Inv t
end

