-- ==== Sys2Proof/Laws/Memory.lean ====
section
/-!
SUPPORT. The memory laws: a read after a write, the canonical form kept by every write, and what runs of reads and writes do.
-/

namespace Sys2Proof.Machine

open Sys2Proof

/-! ### Insert and erase -/

theorem Memory.read_insert (m : Memory) (a j : Nat) (b : Byte) :
    Memory.read (Memory.insert m a b) j = if j = a then b else Memory.read m j := by
  induction m with
  | nil => simp [Memory.insert, Memory.read, eq_comm]
  | cons c rest ih =>
    obtain ⟨k, x⟩ := c
    simp only [Memory.insert]
    split
    · simp [Memory.read, eq_comm]
    · split
      · rename_i h; subst h
        by_cases e : j = a
        · simp [Memory.read, e]
        · simp [Memory.read, e, Ne.symm e]
      · simp only [Memory.read, ih]
        by_cases e : k = j
        · have : ¬ j = a := fun e' => by omega
          simp [e, this]
        · simp [e]

/-- A read of an address that no entry has gives what an unlisted address reads as. -/
theorem Memory.read_of_not_mem (m : Memory) (a : Nat) (h : ∀ c ∈ m, c.1 ≠ a) :
    Memory.read m a = Memory.unlisted a := by
  induction m with
  | nil => rfl
  | cons c rest ih =>
    obtain ⟨k, x⟩ := c
    have hk : k ≠ a := h (k, x) (by simp)
    simp only [Memory.read, hk, if_false]
    exact ih fun c hc => h c (by simp [hc])

theorem Memory.read_erase_of_ne (m : Memory) (a j : Nat) (h : j ≠ a) :
    Memory.read (Memory.erase m a) j = Memory.read m j := by
  induction m with
  | nil => rfl
  | cons c rest ih =>
    obtain ⟨k, x⟩ := c
    simp only [Memory.erase, List.filter_cons] at ih ⊢
    by_cases e : k = a
    · simp [e, Memory.read, ih, Ne.symm h]
    · simp only [bne_iff_ne, ne_eq, e, not_false_eq_true, if_true, Memory.read, ih]

theorem Memory.read_erase_same (m : Memory) (a : Nat) :
    Memory.read (Memory.erase m a) a = Memory.unlisted a :=
  Memory.read_of_not_mem _ _ fun c hc => by simpa [Memory.erase] using (List.mem_filter.mp hc).2

/-- A read after a write: the byte written at its address, the old byte everywhere else. -/
theorem Memory.read_write (m : Memory) (a j : Nat) (b : Byte) :
    Memory.read (Memory.write m a b) j = if j = a then b else Memory.read m j := by
  simp only [Memory.write]
  split
  · rename_i hb
    by_cases e : j = a
    · subst e; simp [Memory.read_erase_same, hb]
    · simp [Memory.read_erase_of_ne _ _ _ e, e]
  · exact Memory.read_insert m a j b

/-! ### The canonical form -/

theorem Memory.mem_insert {m : Memory} {a : Nat} {b : Byte} {c : Host.Cell} (h : c ∈ Memory.insert m a b) :
    c = (a, b) ∨ c ∈ m := by
  induction m with
  | nil => simpa [Memory.insert] using h
  | cons d rest ih =>
    obtain ⟨k, x⟩ := d
    simp only [Memory.insert] at h
    split at h
    · simpa using h
    · split at h
      · rcases List.mem_cons.mp h with h | h <;> simp [h]
      · rcases List.mem_cons.mp h with h | h
        · simp [h]
        · rcases ih h with h | h <;> simp [h]

theorem Memory.pairwise_insert {m : Memory} (a : Nat) (b : Byte) (h : m.Pairwise (fun c d => c.1 < d.1)) :
    (Memory.insert m a b).Pairwise (fun c d => c.1 < d.1) := by
  induction m with
  | nil => simp [Memory.insert]
  | cons d rest ih =>
    obtain ⟨k, x⟩ := d
    obtain ⟨hk, hrest⟩ := List.pairwise_cons.mp h
    simp only [Memory.insert]
    split
    · rename_i hak
      refine List.pairwise_cons.mpr ⟨fun c hc => ?_, h⟩
      rcases List.mem_cons.mp hc with rfl | hc
      · exact hak
      · exact Nat.lt_trans hak (hk c hc)
    · split
      · rename_i e; subst e
        exact List.pairwise_cons.mpr ⟨hk, hrest⟩
      · refine List.pairwise_cons.mpr ⟨fun c hc => ?_, ih hrest⟩
        rcases Memory.mem_insert hc with rfl | hc
        · show k < a; omega
        · exact hk c hc

theorem Memory.wf_nil : Memory.wf [] := by simp [Memory.wf]

/-- Every write keeps the canonical form. -/
theorem Memory.wf_write {m : Memory} {a : Nat} (b : Byte) (h : Memory.wf m) (ha : a < memSize) :
    Memory.wf (Memory.write m a b) := by
  obtain ⟨hp, hc⟩ := h
  simp only [Memory.write]
  split
  · exact ⟨hp.filter _, fun c hm => hc c (List.mem_filter.mp hm).1⟩
  · rename_i hb
    refine ⟨Memory.pairwise_insert a b hp, fun c hm => ?_⟩
    rcases Memory.mem_insert hm with rfl | hm
    · exact ⟨ha, hb⟩
    · exact hc c hm

/-! ### Memory primitives -/

theorem memRead_ok {m : Memory} {a : Nat} (h : a < memSize) : memRead m a = .ok (Memory.read m a) := by
  simp [memRead, h]

theorem memRead_out {m : Memory} {a : Nat} (h : memSize ≤ a) : memRead m a = .error ⟨.addressOutOfRange, a⟩ := by
  simp [memRead, Nat.not_lt.mpr h]

theorem memWrite_ok {m : Memory} {a : Nat} (b : Byte) (h : a < memSize) :
    memWrite m a b = .ok (Memory.write m a b) := by
  simp [memWrite, h]

theorem memWrite_out {m : Memory} {a : Nat} (b : Byte) (h : memSize ≤ a) :
    memWrite m a b = .error ⟨.addressOutOfRange, a⟩ := by
  simp [memWrite, Nat.not_lt.mpr h]

/-! ### Runs -/

/-- A run of reads inside the address space gives the bytes in order. -/
theorem readRun_ok (m : Memory) (a n : Nat) (h : n = 0 ∨ a + n ≤ memSize) :
    readRun m a n = .ok ((List.range n).map fun k => Memory.read m (a + k)) := by
  induction n generalizing a with
  | zero => rfl
  | succ n ih =>
    have ha : a + (n + 1) ≤ memSize := by omega
    simp only [readRun, memRead_ok (m := m) (show a < memSize by omega), ih (a + 1) (by omega), List.range_succ_eq_map]
    simp [Except.bind, bind, pure, Except.pure, Function.comp_def, Nat.add_assoc, Nat.add_comm 1]

/-- A run of reads that leaves the address space raises, with the first address out of range. -/
theorem readRun_error (m : Memory) (a n : Nat) (hn : n ≠ 0) (h : memSize < a + n) :
    readRun m a n = .error ⟨.addressOutOfRange, max a memSize⟩ := by
  induction n generalizing a with
  | zero => exact absurd rfl hn
  | succ n ih =>
    by_cases ha : a < memSize
    · have e := ih (a + 1) (by rintro rfl; omega) (by omega)
      simp only [readRun, memRead_ok (m := m) ha, e]
      simp [Except.bind, bind]
      omega
    · simp only [readRun, memRead_out (m := m) (Nat.not_lt.mp ha)]
      simp [Except.bind, bind]
      omega

/-- A run of reads has one of the two outcomes. -/
theorem readRun_cases (m : Memory) (a n : Nat) :
    ((n = 0 ∨ a + n ≤ memSize) ∧ readRun m a n = .ok ((List.range n).map fun k => Memory.read m (a + k))) ∨
    ((n ≠ 0 ∧ memSize < a + n) ∧ readRun m a n = .error ⟨.addressOutOfRange, max a memSize⟩) := by
  by_cases h : n = 0 ∨ a + n ≤ memSize
  · exact .inl ⟨h, readRun_ok m a n h⟩
  · have h' : n ≠ 0 ∧ memSize < a + n := by omega
    exact .inr ⟨h', readRun_error m a n h'.1 h'.2⟩

/-- A run of writes inside the address space stores the bytes in order, leaves every other byte alone and keeps the canonical
form. -/
theorem writeRun_ok (m : Memory) (a : Nat) (bytes : List Byte) (h : bytes.length = 0 ∨ a + bytes.length ≤ memSize) :
    ∃ m', writeRun m a bytes = .ok m' ∧
      (∀ j, Memory.read m' j = if h : a ≤ j ∧ j - a < bytes.length then bytes[j - a]'h.2 else Memory.read m j) ∧
      (Memory.wf m → Memory.wf m') := by
  induction bytes generalizing m a with
  | nil => exact ⟨m, rfl, by simp, id⟩
  | cons b rest ih =>
    have ha : a < memSize := by simp only [List.length_cons] at h; omega
    obtain ⟨m', e, hr, hw⟩ := ih (Memory.write m a b) (a + 1) (by simp only [List.length_cons] at h; omega)
    refine ⟨m', ?_, fun j => ?_, fun hm => hw (Memory.wf_write b hm ha)⟩
    · simp only [writeRun, memWrite_ok b ha]
      exact e
    · rw [hr j]
      by_cases hj : j = a
      · subst hj
        simp [Memory.read_write]
      · by_cases hl : a ≤ j ∧ j - a < (b :: rest).length
        · have hl' : a + 1 ≤ j ∧ j - (a + 1) < rest.length := by
            simp only [List.length_cons] at hl; omega
          have e0 : j - a ≠ 0 := by omega
          rw [dif_pos hl, dif_pos hl', List.getElem_cons, dif_neg e0]
          simp only [Nat.sub_sub]
        · have hl' : ¬ (a + 1 ≤ j ∧ j - (a + 1) < rest.length) := by
            simp only [List.length_cons] at hl; omega
          rw [dif_neg hl, dif_neg hl', Memory.read_write, if_neg hj]

/-- A run of writes that leaves the address space raises, with the first address out of range. -/
theorem writeRun_error (m : Memory) (a : Nat) (bytes : List Byte) (hn : bytes.length ≠ 0)
    (h : memSize < a + bytes.length) : writeRun m a bytes = .error ⟨.addressOutOfRange, max a memSize⟩ := by
  induction bytes generalizing m a with
  | nil => exact absurd rfl hn
  | cons b rest ih =>
    simp only [List.length_cons] at h
    by_cases ha : a < memSize
    · have e := ih (Memory.write m a b) (a + 1) (by intro h0; omega) (by omega)
      simp only [writeRun, memWrite_ok b ha]
      show writeRun (Memory.write m a b) (a + 1) rest = _
      rw [e]
      congr 2
      omega
    · simp only [writeRun, memWrite_out b (Nat.not_lt.mp ha)]
      show Except.error _ = _
      congr 2
      omega

/-! ### Fetch -/

theorem fetch_ok (m : Memory) (pc : Addr) (h : pc.toNat + 1 < memSize) :
    fetch m pc = .ok (wordOfBytes (Memory.read m pc.toNat) (Memory.read m (pc.toNat + 1))) := by
  simp only [fetch, memRead_ok (m := m) (show pc.toNat < memSize by omega), memRead_ok (m := m) h]
  rfl

theorem fetch_top (m : Memory) (pc : Addr) (h : pc.toNat + 1 = memSize) :
    fetch m pc = .error ⟨.addressOutOfRange, memSize⟩ := by
  simp only [fetch, memRead_ok (m := m) (show pc.toNat < memSize by omega),
    h, memRead_out (m := m) (Nat.le_refl memSize)]
  rfl

/-- A fetch has one of the two outcomes. -/
theorem fetch_cases (m : Memory) (pc : Addr) :
    (pc.toNat + 1 < memSize ∧
      fetch m pc = .ok (wordOfBytes (Memory.read m pc.toNat) (Memory.read m (pc.toNat + 1)))) ∨
    (pc.toNat + 1 = memSize ∧ fetch m pc = .error ⟨.addressOutOfRange, memSize⟩) := by
  by_cases h : pc.toNat + 1 < memSize
  · exact .inl ⟨h, fetch_ok m pc h⟩
  · have h' : pc.toNat + 1 = memSize := by
      have := pc.isLt
      simp only [memSize] at h ⊢
      omega
    exact .inr ⟨h', fetch_top m pc h'⟩

end Sys2Proof.Machine
end

