-- ==== Sys2Proof/Laws/State.lean ====
section
/-!
SUPPORT. One lemma for each field of each update of the state.
-/

namespace Sys2Proof.Machine

open Sys2Proof

variable (s : State)

/-! ### advance -/

@[simp] theorem State.advance_v : s.advance.v = s.v := rfl
@[simp] theorem State.advance_index : s.advance.index = s.index := rfl
@[simp] theorem State.advance_pc : s.advance.pc = s.pc + 2#12 := rfl
@[simp] theorem State.advance_stack : s.advance.stack = s.stack := rfl
@[simp] theorem State.advance_sp : s.advance.sp = s.sp := rfl
@[simp] theorem State.advance_dt : s.advance.dt = s.dt := rfl
@[simp] theorem State.advance_st : s.advance.st = s.st := rfl
@[simp] theorem State.advance_mem : s.advance.mem = s.mem := rfl
@[simp] theorem State.advance_fb : s.advance.fb = s.fb := rfl
@[simp] theorem State.advance_key : s.advance.key = s.key := rfl
@[simp] theorem State.advance_kw : s.advance.kw = s.kw := rfl
@[simp] theorem State.advance_dirty : s.advance.dirty = s.dirty := rfl
@[simp] theorem State.advance_qcfg : s.advance.qcfg = s.qcfg := rfl
@[simp] theorem State.advance_paused : s.advance.paused = s.paused := rfl
@[simp] theorem State.advance_halted : s.advance.halted = s.halted := rfl
@[simp] theorem State.advance_fault : s.advance.fault = s.fault := rfl
@[simp] theorem State.advance_unrec : s.advance.unrec = s.unrec := rfl
@[simp] theorem State.advance_ipf : s.advance.ipf = s.ipf := rfl
@[simp] theorem State.advance_phase : s.advance.phase = s.phase := rfl
@[simp] theorem State.advance_renders : s.advance.renders = s.renders := rfl
@[simp] theorem State.advance_rng : s.advance.rng = s.rng := rfl
@[simp] theorem State.advance_turns : s.advance.turns = s.turns := rfl
@[simp] theorem State.advance_polls : s.advance.polls = s.polls := rfl

/-! ### setPc -/

@[simp] theorem State.setPc_v (a : Addr) : (s.setPc a).v = s.v := rfl
@[simp] theorem State.setPc_index (a : Addr) : (s.setPc a).index = s.index := rfl
@[simp] theorem State.setPc_pc (a : Addr) : (s.setPc a).pc = a := rfl
@[simp] theorem State.setPc_stack (a : Addr) : (s.setPc a).stack = s.stack := rfl
@[simp] theorem State.setPc_sp (a : Addr) : (s.setPc a).sp = s.sp := rfl
@[simp] theorem State.setPc_dt (a : Addr) : (s.setPc a).dt = s.dt := rfl
@[simp] theorem State.setPc_st (a : Addr) : (s.setPc a).st = s.st := rfl
@[simp] theorem State.setPc_mem (a : Addr) : (s.setPc a).mem = s.mem := rfl
@[simp] theorem State.setPc_fb (a : Addr) : (s.setPc a).fb = s.fb := rfl
@[simp] theorem State.setPc_key (a : Addr) : (s.setPc a).key = s.key := rfl
@[simp] theorem State.setPc_kw (a : Addr) : (s.setPc a).kw = s.kw := rfl
@[simp] theorem State.setPc_dirty (a : Addr) : (s.setPc a).dirty = s.dirty := rfl
@[simp] theorem State.setPc_qcfg (a : Addr) : (s.setPc a).qcfg = s.qcfg := rfl
@[simp] theorem State.setPc_paused (a : Addr) : (s.setPc a).paused = s.paused := rfl
@[simp] theorem State.setPc_halted (a : Addr) : (s.setPc a).halted = s.halted := rfl
@[simp] theorem State.setPc_fault (a : Addr) : (s.setPc a).fault = s.fault := rfl
@[simp] theorem State.setPc_unrec (a : Addr) : (s.setPc a).unrec = s.unrec := rfl
@[simp] theorem State.setPc_ipf (a : Addr) : (s.setPc a).ipf = s.ipf := rfl
@[simp] theorem State.setPc_phase (a : Addr) : (s.setPc a).phase = s.phase := rfl
@[simp] theorem State.setPc_renders (a : Addr) : (s.setPc a).renders = s.renders := rfl
@[simp] theorem State.setPc_rng (a : Addr) : (s.setPc a).rng = s.rng := rfl
@[simp] theorem State.setPc_turns (a : Addr) : (s.setPc a).turns = s.turns := rfl
@[simp] theorem State.setPc_polls (a : Addr) : (s.setPc a).polls = s.polls := rfl

/-! ### refetch -/

@[simp] theorem State.refetch_v : s.refetch.v = s.v := rfl
@[simp] theorem State.refetch_index : s.refetch.index = s.index := rfl
@[simp] theorem State.refetch_pc : s.refetch.pc = s.pc - 2#12 := rfl
@[simp] theorem State.refetch_stack : s.refetch.stack = s.stack := rfl
@[simp] theorem State.refetch_sp : s.refetch.sp = s.sp := rfl
@[simp] theorem State.refetch_dt : s.refetch.dt = s.dt := rfl
@[simp] theorem State.refetch_st : s.refetch.st = s.st := rfl
@[simp] theorem State.refetch_mem : s.refetch.mem = s.mem := rfl
@[simp] theorem State.refetch_fb : s.refetch.fb = s.fb := rfl
@[simp] theorem State.refetch_key : s.refetch.key = s.key := rfl
@[simp] theorem State.refetch_kw : s.refetch.kw = s.kw := rfl
@[simp] theorem State.refetch_dirty : s.refetch.dirty = s.dirty := rfl
@[simp] theorem State.refetch_qcfg : s.refetch.qcfg = s.qcfg := rfl
@[simp] theorem State.refetch_paused : s.refetch.paused = s.paused := rfl
@[simp] theorem State.refetch_halted : s.refetch.halted = s.halted := rfl
@[simp] theorem State.refetch_fault : s.refetch.fault = s.fault := rfl
@[simp] theorem State.refetch_unrec : s.refetch.unrec = s.unrec := rfl
@[simp] theorem State.refetch_ipf : s.refetch.ipf = s.ipf := rfl
@[simp] theorem State.refetch_phase : s.refetch.phase = s.phase := rfl
@[simp] theorem State.refetch_renders : s.refetch.renders = s.renders := rfl
@[simp] theorem State.refetch_rng : s.refetch.rng = s.rng := rfl
@[simp] theorem State.refetch_turns : s.refetch.turns = s.turns := rfl
@[simp] theorem State.refetch_polls : s.refetch.polls = s.polls := rfl

/-! ### skipIf -/

@[simp] theorem State.skipIf_v (c : Bool) : (s.skipIf c).v = s.v := by cases c <;> rfl
@[simp] theorem State.skipIf_index (c : Bool) : (s.skipIf c).index = s.index := by cases c <;> rfl
@[simp] theorem State.skipIf_pc (c : Bool) : (s.skipIf c).pc = if c then s.pc + 2#12 else s.pc := by cases c <;> rfl
@[simp] theorem State.skipIf_stack (c : Bool) : (s.skipIf c).stack = s.stack := by cases c <;> rfl
@[simp] theorem State.skipIf_sp (c : Bool) : (s.skipIf c).sp = s.sp := by cases c <;> rfl
@[simp] theorem State.skipIf_dt (c : Bool) : (s.skipIf c).dt = s.dt := by cases c <;> rfl
@[simp] theorem State.skipIf_st (c : Bool) : (s.skipIf c).st = s.st := by cases c <;> rfl
@[simp] theorem State.skipIf_mem (c : Bool) : (s.skipIf c).mem = s.mem := by cases c <;> rfl
@[simp] theorem State.skipIf_fb (c : Bool) : (s.skipIf c).fb = s.fb := by cases c <;> rfl
@[simp] theorem State.skipIf_key (c : Bool) : (s.skipIf c).key = s.key := by cases c <;> rfl
@[simp] theorem State.skipIf_kw (c : Bool) : (s.skipIf c).kw = s.kw := by cases c <;> rfl
@[simp] theorem State.skipIf_dirty (c : Bool) : (s.skipIf c).dirty = s.dirty := by cases c <;> rfl
@[simp] theorem State.skipIf_qcfg (c : Bool) : (s.skipIf c).qcfg = s.qcfg := by cases c <;> rfl
@[simp] theorem State.skipIf_paused (c : Bool) : (s.skipIf c).paused = s.paused := by cases c <;> rfl
@[simp] theorem State.skipIf_halted (c : Bool) : (s.skipIf c).halted = s.halted := by cases c <;> rfl
@[simp] theorem State.skipIf_fault (c : Bool) : (s.skipIf c).fault = s.fault := by cases c <;> rfl
@[simp] theorem State.skipIf_unrec (c : Bool) : (s.skipIf c).unrec = s.unrec := by cases c <;> rfl
@[simp] theorem State.skipIf_ipf (c : Bool) : (s.skipIf c).ipf = s.ipf := by cases c <;> rfl
@[simp] theorem State.skipIf_phase (c : Bool) : (s.skipIf c).phase = s.phase := by cases c <;> rfl
@[simp] theorem State.skipIf_renders (c : Bool) : (s.skipIf c).renders = s.renders := by cases c <;> rfl
@[simp] theorem State.skipIf_rng (c : Bool) : (s.skipIf c).rng = s.rng := by cases c <;> rfl
@[simp] theorem State.skipIf_turns (c : Bool) : (s.skipIf c).turns = s.turns := by cases c <;> rfl
@[simp] theorem State.skipIf_polls (c : Bool) : (s.skipIf c).polls = s.polls := by cases c <;> rfl

/-! ### setV -/

@[simp] theorem State.setV_v (r : Reg) (b : Byte) : (s.setV r b).v = s.v.set r b := rfl
@[simp] theorem State.setV_index (r : Reg) (b : Byte) : (s.setV r b).index = s.index := rfl
@[simp] theorem State.setV_pc (r : Reg) (b : Byte) : (s.setV r b).pc = s.pc := rfl
@[simp] theorem State.setV_stack (r : Reg) (b : Byte) : (s.setV r b).stack = s.stack := rfl
@[simp] theorem State.setV_sp (r : Reg) (b : Byte) : (s.setV r b).sp = s.sp := rfl
@[simp] theorem State.setV_dt (r : Reg) (b : Byte) : (s.setV r b).dt = s.dt := rfl
@[simp] theorem State.setV_st (r : Reg) (b : Byte) : (s.setV r b).st = s.st := rfl
@[simp] theorem State.setV_mem (r : Reg) (b : Byte) : (s.setV r b).mem = s.mem := rfl
@[simp] theorem State.setV_fb (r : Reg) (b : Byte) : (s.setV r b).fb = s.fb := rfl
@[simp] theorem State.setV_key (r : Reg) (b : Byte) : (s.setV r b).key = s.key := rfl
@[simp] theorem State.setV_kw (r : Reg) (b : Byte) : (s.setV r b).kw = s.kw := rfl
@[simp] theorem State.setV_dirty (r : Reg) (b : Byte) : (s.setV r b).dirty = s.dirty := rfl
@[simp] theorem State.setV_qcfg (r : Reg) (b : Byte) : (s.setV r b).qcfg = s.qcfg := rfl
@[simp] theorem State.setV_paused (r : Reg) (b : Byte) : (s.setV r b).paused = s.paused := rfl
@[simp] theorem State.setV_halted (r : Reg) (b : Byte) : (s.setV r b).halted = s.halted := rfl
@[simp] theorem State.setV_fault (r : Reg) (b : Byte) : (s.setV r b).fault = s.fault := rfl
@[simp] theorem State.setV_unrec (r : Reg) (b : Byte) : (s.setV r b).unrec = s.unrec := rfl
@[simp] theorem State.setV_ipf (r : Reg) (b : Byte) : (s.setV r b).ipf = s.ipf := rfl
@[simp] theorem State.setV_phase (r : Reg) (b : Byte) : (s.setV r b).phase = s.phase := rfl
@[simp] theorem State.setV_renders (r : Reg) (b : Byte) : (s.setV r b).renders = s.renders := rfl
@[simp] theorem State.setV_rng (r : Reg) (b : Byte) : (s.setV r b).rng = s.rng := rfl
@[simp] theorem State.setV_turns (r : Reg) (b : Byte) : (s.setV r b).turns = s.turns := rfl
@[simp] theorem State.setV_polls (r : Reg) (b : Byte) : (s.setV r b).polls = s.polls := rfl

/-! ### setFlagIf -/

@[simp] theorem State.setFlagIf_v (q : Bool) (b : Byte) : (s.setFlagIf q b).v = if q then s.v.set vF b else s.v := by cases q <;> rfl
@[simp] theorem State.setFlagIf_index (q : Bool) (b : Byte) : (s.setFlagIf q b).index = s.index := by cases q <;> rfl
@[simp] theorem State.setFlagIf_pc (q : Bool) (b : Byte) : (s.setFlagIf q b).pc = s.pc := by cases q <;> rfl
@[simp] theorem State.setFlagIf_stack (q : Bool) (b : Byte) : (s.setFlagIf q b).stack = s.stack := by cases q <;> rfl
@[simp] theorem State.setFlagIf_sp (q : Bool) (b : Byte) : (s.setFlagIf q b).sp = s.sp := by cases q <;> rfl
@[simp] theorem State.setFlagIf_dt (q : Bool) (b : Byte) : (s.setFlagIf q b).dt = s.dt := by cases q <;> rfl
@[simp] theorem State.setFlagIf_st (q : Bool) (b : Byte) : (s.setFlagIf q b).st = s.st := by cases q <;> rfl
@[simp] theorem State.setFlagIf_mem (q : Bool) (b : Byte) : (s.setFlagIf q b).mem = s.mem := by cases q <;> rfl
@[simp] theorem State.setFlagIf_fb (q : Bool) (b : Byte) : (s.setFlagIf q b).fb = s.fb := by cases q <;> rfl
@[simp] theorem State.setFlagIf_key (q : Bool) (b : Byte) : (s.setFlagIf q b).key = s.key := by cases q <;> rfl
@[simp] theorem State.setFlagIf_kw (q : Bool) (b : Byte) : (s.setFlagIf q b).kw = s.kw := by cases q <;> rfl
@[simp] theorem State.setFlagIf_dirty (q : Bool) (b : Byte) : (s.setFlagIf q b).dirty = s.dirty := by cases q <;> rfl
@[simp] theorem State.setFlagIf_qcfg (q : Bool) (b : Byte) : (s.setFlagIf q b).qcfg = s.qcfg := by cases q <;> rfl
@[simp] theorem State.setFlagIf_paused (q : Bool) (b : Byte) : (s.setFlagIf q b).paused = s.paused := by cases q <;> rfl
@[simp] theorem State.setFlagIf_halted (q : Bool) (b : Byte) : (s.setFlagIf q b).halted = s.halted := by cases q <;> rfl
@[simp] theorem State.setFlagIf_fault (q : Bool) (b : Byte) : (s.setFlagIf q b).fault = s.fault := by cases q <;> rfl
@[simp] theorem State.setFlagIf_unrec (q : Bool) (b : Byte) : (s.setFlagIf q b).unrec = s.unrec := by cases q <;> rfl
@[simp] theorem State.setFlagIf_ipf (q : Bool) (b : Byte) : (s.setFlagIf q b).ipf = s.ipf := by cases q <;> rfl
@[simp] theorem State.setFlagIf_phase (q : Bool) (b : Byte) : (s.setFlagIf q b).phase = s.phase := by cases q <;> rfl
@[simp] theorem State.setFlagIf_renders (q : Bool) (b : Byte) : (s.setFlagIf q b).renders = s.renders := by cases q <;> rfl
@[simp] theorem State.setFlagIf_rng (q : Bool) (b : Byte) : (s.setFlagIf q b).rng = s.rng := by cases q <;> rfl
@[simp] theorem State.setFlagIf_turns (q : Bool) (b : Byte) : (s.setFlagIf q b).turns = s.turns := by cases q <;> rfl
@[simp] theorem State.setFlagIf_polls (q : Bool) (b : Byte) : (s.setFlagIf q b).polls = s.polls := by cases q <;> rfl

/-! ### setResultFlag -/

@[simp] theorem State.setResultFlag_v (r : Reg) (b f : Byte) : (s.setResultFlag r b f).v = (s.v.set r b).set vF f := rfl
@[simp] theorem State.setResultFlag_index (r : Reg) (b f : Byte) : (s.setResultFlag r b f).index = s.index := rfl
@[simp] theorem State.setResultFlag_pc (r : Reg) (b f : Byte) : (s.setResultFlag r b f).pc = s.pc := rfl
@[simp] theorem State.setResultFlag_stack (r : Reg) (b f : Byte) : (s.setResultFlag r b f).stack = s.stack := rfl
@[simp] theorem State.setResultFlag_sp (r : Reg) (b f : Byte) : (s.setResultFlag r b f).sp = s.sp := rfl
@[simp] theorem State.setResultFlag_dt (r : Reg) (b f : Byte) : (s.setResultFlag r b f).dt = s.dt := rfl
@[simp] theorem State.setResultFlag_st (r : Reg) (b f : Byte) : (s.setResultFlag r b f).st = s.st := rfl
@[simp] theorem State.setResultFlag_mem (r : Reg) (b f : Byte) : (s.setResultFlag r b f).mem = s.mem := rfl
@[simp] theorem State.setResultFlag_fb (r : Reg) (b f : Byte) : (s.setResultFlag r b f).fb = s.fb := rfl
@[simp] theorem State.setResultFlag_key (r : Reg) (b f : Byte) : (s.setResultFlag r b f).key = s.key := rfl
@[simp] theorem State.setResultFlag_kw (r : Reg) (b f : Byte) : (s.setResultFlag r b f).kw = s.kw := rfl
@[simp] theorem State.setResultFlag_dirty (r : Reg) (b f : Byte) : (s.setResultFlag r b f).dirty = s.dirty := rfl
@[simp] theorem State.setResultFlag_qcfg (r : Reg) (b f : Byte) : (s.setResultFlag r b f).qcfg = s.qcfg := rfl
@[simp] theorem State.setResultFlag_paused (r : Reg) (b f : Byte) : (s.setResultFlag r b f).paused = s.paused := rfl
@[simp] theorem State.setResultFlag_halted (r : Reg) (b f : Byte) : (s.setResultFlag r b f).halted = s.halted := rfl
@[simp] theorem State.setResultFlag_fault (r : Reg) (b f : Byte) : (s.setResultFlag r b f).fault = s.fault := rfl
@[simp] theorem State.setResultFlag_unrec (r : Reg) (b f : Byte) : (s.setResultFlag r b f).unrec = s.unrec := rfl
@[simp] theorem State.setResultFlag_ipf (r : Reg) (b f : Byte) : (s.setResultFlag r b f).ipf = s.ipf := rfl
@[simp] theorem State.setResultFlag_phase (r : Reg) (b f : Byte) : (s.setResultFlag r b f).phase = s.phase := rfl
@[simp] theorem State.setResultFlag_renders (r : Reg) (b f : Byte) : (s.setResultFlag r b f).renders = s.renders := rfl
@[simp] theorem State.setResultFlag_rng (r : Reg) (b f : Byte) : (s.setResultFlag r b f).rng = s.rng := rfl
@[simp] theorem State.setResultFlag_turns (r : Reg) (b f : Byte) : (s.setResultFlag r b f).turns = s.turns := rfl
@[simp] theorem State.setResultFlag_polls (r : Reg) (b f : Byte) : (s.setResultFlag r b f).polls = s.polls := rfl

/-! ### loadRegs -/

@[simp] theorem State.loadRegs_index (l : List Byte) : (s.loadRegs l).index = s.index := rfl
@[simp] theorem State.loadRegs_pc (l : List Byte) : (s.loadRegs l).pc = s.pc := rfl
@[simp] theorem State.loadRegs_stack (l : List Byte) : (s.loadRegs l).stack = s.stack := rfl
@[simp] theorem State.loadRegs_sp (l : List Byte) : (s.loadRegs l).sp = s.sp := rfl
@[simp] theorem State.loadRegs_dt (l : List Byte) : (s.loadRegs l).dt = s.dt := rfl
@[simp] theorem State.loadRegs_st (l : List Byte) : (s.loadRegs l).st = s.st := rfl
@[simp] theorem State.loadRegs_mem (l : List Byte) : (s.loadRegs l).mem = s.mem := rfl
@[simp] theorem State.loadRegs_fb (l : List Byte) : (s.loadRegs l).fb = s.fb := rfl
@[simp] theorem State.loadRegs_key (l : List Byte) : (s.loadRegs l).key = s.key := rfl
@[simp] theorem State.loadRegs_kw (l : List Byte) : (s.loadRegs l).kw = s.kw := rfl
@[simp] theorem State.loadRegs_dirty (l : List Byte) : (s.loadRegs l).dirty = s.dirty := rfl
@[simp] theorem State.loadRegs_qcfg (l : List Byte) : (s.loadRegs l).qcfg = s.qcfg := rfl
@[simp] theorem State.loadRegs_paused (l : List Byte) : (s.loadRegs l).paused = s.paused := rfl
@[simp] theorem State.loadRegs_halted (l : List Byte) : (s.loadRegs l).halted = s.halted := rfl
@[simp] theorem State.loadRegs_fault (l : List Byte) : (s.loadRegs l).fault = s.fault := rfl
@[simp] theorem State.loadRegs_unrec (l : List Byte) : (s.loadRegs l).unrec = s.unrec := rfl
@[simp] theorem State.loadRegs_ipf (l : List Byte) : (s.loadRegs l).ipf = s.ipf := rfl
@[simp] theorem State.loadRegs_phase (l : List Byte) : (s.loadRegs l).phase = s.phase := rfl
@[simp] theorem State.loadRegs_renders (l : List Byte) : (s.loadRegs l).renders = s.renders := rfl
@[simp] theorem State.loadRegs_rng (l : List Byte) : (s.loadRegs l).rng = s.rng := rfl
@[simp] theorem State.loadRegs_turns (l : List Byte) : (s.loadRegs l).turns = s.turns := rfl
@[simp] theorem State.loadRegs_polls (l : List Byte) : (s.loadRegs l).polls = s.polls := rfl

/-! ### setIndex -/

@[simp] theorem State.setIndex_v (i : Word) : (s.setIndex i).v = s.v := rfl
@[simp] theorem State.setIndex_index (i : Word) : (s.setIndex i).index = i := rfl
@[simp] theorem State.setIndex_pc (i : Word) : (s.setIndex i).pc = s.pc := rfl
@[simp] theorem State.setIndex_stack (i : Word) : (s.setIndex i).stack = s.stack := rfl
@[simp] theorem State.setIndex_sp (i : Word) : (s.setIndex i).sp = s.sp := rfl
@[simp] theorem State.setIndex_dt (i : Word) : (s.setIndex i).dt = s.dt := rfl
@[simp] theorem State.setIndex_st (i : Word) : (s.setIndex i).st = s.st := rfl
@[simp] theorem State.setIndex_mem (i : Word) : (s.setIndex i).mem = s.mem := rfl
@[simp] theorem State.setIndex_fb (i : Word) : (s.setIndex i).fb = s.fb := rfl
@[simp] theorem State.setIndex_key (i : Word) : (s.setIndex i).key = s.key := rfl
@[simp] theorem State.setIndex_kw (i : Word) : (s.setIndex i).kw = s.kw := rfl
@[simp] theorem State.setIndex_dirty (i : Word) : (s.setIndex i).dirty = s.dirty := rfl
@[simp] theorem State.setIndex_qcfg (i : Word) : (s.setIndex i).qcfg = s.qcfg := rfl
@[simp] theorem State.setIndex_paused (i : Word) : (s.setIndex i).paused = s.paused := rfl
@[simp] theorem State.setIndex_halted (i : Word) : (s.setIndex i).halted = s.halted := rfl
@[simp] theorem State.setIndex_fault (i : Word) : (s.setIndex i).fault = s.fault := rfl
@[simp] theorem State.setIndex_unrec (i : Word) : (s.setIndex i).unrec = s.unrec := rfl
@[simp] theorem State.setIndex_ipf (i : Word) : (s.setIndex i).ipf = s.ipf := rfl
@[simp] theorem State.setIndex_phase (i : Word) : (s.setIndex i).phase = s.phase := rfl
@[simp] theorem State.setIndex_renders (i : Word) : (s.setIndex i).renders = s.renders := rfl
@[simp] theorem State.setIndex_rng (i : Word) : (s.setIndex i).rng = s.rng := rfl
@[simp] theorem State.setIndex_turns (i : Word) : (s.setIndex i).turns = s.turns := rfl
@[simp] theorem State.setIndex_polls (i : Word) : (s.setIndex i).polls = s.polls := rfl

/-! ### setMem -/

@[simp] theorem State.setMem_v (m : Memory) : (s.setMem m).v = s.v := rfl
@[simp] theorem State.setMem_index (m : Memory) : (s.setMem m).index = s.index := rfl
@[simp] theorem State.setMem_pc (m : Memory) : (s.setMem m).pc = s.pc := rfl
@[simp] theorem State.setMem_stack (m : Memory) : (s.setMem m).stack = s.stack := rfl
@[simp] theorem State.setMem_sp (m : Memory) : (s.setMem m).sp = s.sp := rfl
@[simp] theorem State.setMem_dt (m : Memory) : (s.setMem m).dt = s.dt := rfl
@[simp] theorem State.setMem_st (m : Memory) : (s.setMem m).st = s.st := rfl
@[simp] theorem State.setMem_mem (m : Memory) : (s.setMem m).mem = m := rfl
@[simp] theorem State.setMem_fb (m : Memory) : (s.setMem m).fb = s.fb := rfl
@[simp] theorem State.setMem_key (m : Memory) : (s.setMem m).key = s.key := rfl
@[simp] theorem State.setMem_kw (m : Memory) : (s.setMem m).kw = s.kw := rfl
@[simp] theorem State.setMem_dirty (m : Memory) : (s.setMem m).dirty = s.dirty := rfl
@[simp] theorem State.setMem_qcfg (m : Memory) : (s.setMem m).qcfg = s.qcfg := rfl
@[simp] theorem State.setMem_paused (m : Memory) : (s.setMem m).paused = s.paused := rfl
@[simp] theorem State.setMem_halted (m : Memory) : (s.setMem m).halted = s.halted := rfl
@[simp] theorem State.setMem_fault (m : Memory) : (s.setMem m).fault = s.fault := rfl
@[simp] theorem State.setMem_unrec (m : Memory) : (s.setMem m).unrec = s.unrec := rfl
@[simp] theorem State.setMem_ipf (m : Memory) : (s.setMem m).ipf = s.ipf := rfl
@[simp] theorem State.setMem_phase (m : Memory) : (s.setMem m).phase = s.phase := rfl
@[simp] theorem State.setMem_renders (m : Memory) : (s.setMem m).renders = s.renders := rfl
@[simp] theorem State.setMem_rng (m : Memory) : (s.setMem m).rng = s.rng := rfl
@[simp] theorem State.setMem_turns (m : Memory) : (s.setMem m).turns = s.turns := rfl
@[simp] theorem State.setMem_polls (m : Memory) : (s.setMem m).polls = s.polls := rfl

/-! ### takeDraw -/

@[simp] theorem State.takeDraw_v : s.takeDraw.v = s.v := rfl
@[simp] theorem State.takeDraw_index : s.takeDraw.index = s.index := rfl
@[simp] theorem State.takeDraw_pc : s.takeDraw.pc = s.pc := rfl
@[simp] theorem State.takeDraw_stack : s.takeDraw.stack = s.stack := rfl
@[simp] theorem State.takeDraw_sp : s.takeDraw.sp = s.sp := rfl
@[simp] theorem State.takeDraw_dt : s.takeDraw.dt = s.dt := rfl
@[simp] theorem State.takeDraw_st : s.takeDraw.st = s.st := rfl
@[simp] theorem State.takeDraw_mem : s.takeDraw.mem = s.mem := rfl
@[simp] theorem State.takeDraw_fb : s.takeDraw.fb = s.fb := rfl
@[simp] theorem State.takeDraw_key : s.takeDraw.key = s.key := rfl
@[simp] theorem State.takeDraw_kw : s.takeDraw.kw = s.kw := rfl
@[simp] theorem State.takeDraw_dirty : s.takeDraw.dirty = s.dirty := rfl
@[simp] theorem State.takeDraw_qcfg : s.takeDraw.qcfg = s.qcfg := rfl
@[simp] theorem State.takeDraw_paused : s.takeDraw.paused = s.paused := rfl
@[simp] theorem State.takeDraw_halted : s.takeDraw.halted = s.halted := rfl
@[simp] theorem State.takeDraw_fault : s.takeDraw.fault = s.fault := rfl
@[simp] theorem State.takeDraw_unrec : s.takeDraw.unrec = s.unrec := rfl
@[simp] theorem State.takeDraw_ipf : s.takeDraw.ipf = s.ipf := rfl
@[simp] theorem State.takeDraw_phase : s.takeDraw.phase = s.phase := rfl
@[simp] theorem State.takeDraw_renders : s.takeDraw.renders = s.renders := rfl
@[simp] theorem State.takeDraw_rng : s.takeDraw.rng = s.rng.advance := rfl
@[simp] theorem State.takeDraw_turns : s.takeDraw.turns = s.turns := rfl
@[simp] theorem State.takeDraw_polls : s.takeDraw.polls = s.polls := rfl

/-! ### setKw -/

@[simp] theorem State.setKw_v (p : KeyPhase) (k : Key) : (s.setKw p k).v = s.v := rfl
@[simp] theorem State.setKw_index (p : KeyPhase) (k : Key) : (s.setKw p k).index = s.index := rfl
@[simp] theorem State.setKw_pc (p : KeyPhase) (k : Key) : (s.setKw p k).pc = s.pc := rfl
@[simp] theorem State.setKw_stack (p : KeyPhase) (k : Key) : (s.setKw p k).stack = s.stack := rfl
@[simp] theorem State.setKw_sp (p : KeyPhase) (k : Key) : (s.setKw p k).sp = s.sp := rfl
@[simp] theorem State.setKw_dt (p : KeyPhase) (k : Key) : (s.setKw p k).dt = s.dt := rfl
@[simp] theorem State.setKw_st (p : KeyPhase) (k : Key) : (s.setKw p k).st = s.st := rfl
@[simp] theorem State.setKw_mem (p : KeyPhase) (k : Key) : (s.setKw p k).mem = s.mem := rfl
@[simp] theorem State.setKw_fb (p : KeyPhase) (k : Key) : (s.setKw p k).fb = s.fb := rfl
@[simp] theorem State.setKw_key (p : KeyPhase) (k : Key) : (s.setKw p k).key = s.key := rfl
@[simp] theorem State.setKw_kw (p : KeyPhase) (k : Key) : (s.setKw p k).kw = ⟨p, k⟩ := rfl
@[simp] theorem State.setKw_dirty (p : KeyPhase) (k : Key) : (s.setKw p k).dirty = s.dirty := rfl
@[simp] theorem State.setKw_qcfg (p : KeyPhase) (k : Key) : (s.setKw p k).qcfg = s.qcfg := rfl
@[simp] theorem State.setKw_paused (p : KeyPhase) (k : Key) : (s.setKw p k).paused = s.paused := rfl
@[simp] theorem State.setKw_halted (p : KeyPhase) (k : Key) : (s.setKw p k).halted = s.halted := rfl
@[simp] theorem State.setKw_fault (p : KeyPhase) (k : Key) : (s.setKw p k).fault = s.fault := rfl
@[simp] theorem State.setKw_unrec (p : KeyPhase) (k : Key) : (s.setKw p k).unrec = s.unrec := rfl
@[simp] theorem State.setKw_ipf (p : KeyPhase) (k : Key) : (s.setKw p k).ipf = s.ipf := rfl
@[simp] theorem State.setKw_phase (p : KeyPhase) (k : Key) : (s.setKw p k).phase = s.phase := rfl
@[simp] theorem State.setKw_renders (p : KeyPhase) (k : Key) : (s.setKw p k).renders = s.renders := rfl
@[simp] theorem State.setKw_rng (p : KeyPhase) (k : Key) : (s.setKw p k).rng = s.rng := rfl
@[simp] theorem State.setKw_turns (p : KeyPhase) (k : Key) : (s.setKw p k).turns = s.turns := rfl
@[simp] theorem State.setKw_polls (p : KeyPhase) (k : Key) : (s.setKw p k).polls = s.polls := rfl

/-! ### drawSprite -/

@[simp] theorem State.drawSprite_index (x y : Nat) (l : List Byte) : (s.drawSprite x y l).index = s.index := rfl
@[simp] theorem State.drawSprite_pc (x y : Nat) (l : List Byte) : (s.drawSprite x y l).pc = s.pc := rfl
@[simp] theorem State.drawSprite_stack (x y : Nat) (l : List Byte) : (s.drawSprite x y l).stack = s.stack := rfl
@[simp] theorem State.drawSprite_sp (x y : Nat) (l : List Byte) : (s.drawSprite x y l).sp = s.sp := rfl
@[simp] theorem State.drawSprite_dt (x y : Nat) (l : List Byte) : (s.drawSprite x y l).dt = s.dt := rfl
@[simp] theorem State.drawSprite_st (x y : Nat) (l : List Byte) : (s.drawSprite x y l).st = s.st := rfl
@[simp] theorem State.drawSprite_mem (x y : Nat) (l : List Byte) : (s.drawSprite x y l).mem = s.mem := rfl
@[simp] theorem State.drawSprite_key (x y : Nat) (l : List Byte) : (s.drawSprite x y l).key = s.key := rfl
@[simp] theorem State.drawSprite_kw (x y : Nat) (l : List Byte) : (s.drawSprite x y l).kw = s.kw := rfl
@[simp] theorem State.drawSprite_qcfg (x y : Nat) (l : List Byte) : (s.drawSprite x y l).qcfg = s.qcfg := rfl
@[simp] theorem State.drawSprite_paused (x y : Nat) (l : List Byte) : (s.drawSprite x y l).paused = s.paused := rfl
@[simp] theorem State.drawSprite_halted (x y : Nat) (l : List Byte) : (s.drawSprite x y l).halted = s.halted := rfl
@[simp] theorem State.drawSprite_fault (x y : Nat) (l : List Byte) : (s.drawSprite x y l).fault = s.fault := rfl
@[simp] theorem State.drawSprite_unrec (x y : Nat) (l : List Byte) : (s.drawSprite x y l).unrec = s.unrec := rfl
@[simp] theorem State.drawSprite_ipf (x y : Nat) (l : List Byte) : (s.drawSprite x y l).ipf = s.ipf := rfl
@[simp] theorem State.drawSprite_phase (x y : Nat) (l : List Byte) : (s.drawSprite x y l).phase = s.phase := rfl
@[simp] theorem State.drawSprite_renders (x y : Nat) (l : List Byte) : (s.drawSprite x y l).renders = s.renders := rfl
@[simp] theorem State.drawSprite_rng (x y : Nat) (l : List Byte) : (s.drawSprite x y l).rng = s.rng := rfl
@[simp] theorem State.drawSprite_turns (x y : Nat) (l : List Byte) : (s.drawSprite x y l).turns = s.turns := rfl
@[simp] theorem State.drawSprite_polls (x y : Nat) (l : List Byte) : (s.drawSprite x y l).polls = s.polls := rfl

/-! ### signalUnrecognized -/

@[simp] theorem State.signalUnrecognized_v (w : Word) : (s.signalUnrecognized w).v = s.v := rfl
@[simp] theorem State.signalUnrecognized_index (w : Word) : (s.signalUnrecognized w).index = s.index := rfl
@[simp] theorem State.signalUnrecognized_pc (w : Word) : (s.signalUnrecognized w).pc = s.pc + 2#12 := rfl
@[simp] theorem State.signalUnrecognized_stack (w : Word) : (s.signalUnrecognized w).stack = s.stack := rfl
@[simp] theorem State.signalUnrecognized_sp (w : Word) : (s.signalUnrecognized w).sp = s.sp := rfl
@[simp] theorem State.signalUnrecognized_dt (w : Word) : (s.signalUnrecognized w).dt = s.dt := rfl
@[simp] theorem State.signalUnrecognized_st (w : Word) : (s.signalUnrecognized w).st = s.st := rfl
@[simp] theorem State.signalUnrecognized_mem (w : Word) : (s.signalUnrecognized w).mem = s.mem := rfl
@[simp] theorem State.signalUnrecognized_fb (w : Word) : (s.signalUnrecognized w).fb = s.fb := rfl
@[simp] theorem State.signalUnrecognized_key (w : Word) : (s.signalUnrecognized w).key = s.key := rfl
@[simp] theorem State.signalUnrecognized_kw (w : Word) : (s.signalUnrecognized w).kw = s.kw := rfl
@[simp] theorem State.signalUnrecognized_dirty (w : Word) : (s.signalUnrecognized w).dirty = s.dirty := rfl
@[simp] theorem State.signalUnrecognized_qcfg (w : Word) : (s.signalUnrecognized w).qcfg = s.qcfg := rfl
@[simp] theorem State.signalUnrecognized_paused (w : Word) : (s.signalUnrecognized w).paused = s.paused := rfl
@[simp] theorem State.signalUnrecognized_halted (w : Word) : (s.signalUnrecognized w).halted = s.halted := rfl
@[simp] theorem State.signalUnrecognized_fault (w : Word) : (s.signalUnrecognized w).fault = s.fault := rfl
@[simp] theorem State.signalUnrecognized_unrec (w : Word) : (s.signalUnrecognized w).unrec = s.unrec ++ [⟨s.pc, w⟩] := rfl
@[simp] theorem State.signalUnrecognized_ipf (w : Word) : (s.signalUnrecognized w).ipf = s.ipf := rfl
@[simp] theorem State.signalUnrecognized_phase (w : Word) : (s.signalUnrecognized w).phase = s.phase := rfl
@[simp] theorem State.signalUnrecognized_renders (w : Word) : (s.signalUnrecognized w).renders = s.renders := rfl
@[simp] theorem State.signalUnrecognized_rng (w : Word) : (s.signalUnrecognized w).rng = s.rng := rfl
@[simp] theorem State.signalUnrecognized_turns (w : Word) : (s.signalUnrecognized w).turns = s.turns := rfl
@[simp] theorem State.signalUnrecognized_polls (w : Word) : (s.signalUnrecognized w).polls = s.polls := rfl

/-! ### fatalFault -/

@[simp] theorem State.fatalFault_v (w : Option Word) (r : Raise) : (s.fatalFault w r).v = s.v := rfl
@[simp] theorem State.fatalFault_index (w : Option Word) (r : Raise) : (s.fatalFault w r).index = s.index := rfl
@[simp] theorem State.fatalFault_pc (w : Option Word) (r : Raise) : (s.fatalFault w r).pc = s.pc := rfl
@[simp] theorem State.fatalFault_stack (w : Option Word) (r : Raise) : (s.fatalFault w r).stack = s.stack := rfl
@[simp] theorem State.fatalFault_sp (w : Option Word) (r : Raise) : (s.fatalFault w r).sp = s.sp := rfl
@[simp] theorem State.fatalFault_dt (w : Option Word) (r : Raise) : (s.fatalFault w r).dt = s.dt := rfl
@[simp] theorem State.fatalFault_st (w : Option Word) (r : Raise) : (s.fatalFault w r).st = s.st := rfl
@[simp] theorem State.fatalFault_mem (w : Option Word) (r : Raise) : (s.fatalFault w r).mem = s.mem := rfl
@[simp] theorem State.fatalFault_fb (w : Option Word) (r : Raise) : (s.fatalFault w r).fb = s.fb := rfl
@[simp] theorem State.fatalFault_key (w : Option Word) (r : Raise) : (s.fatalFault w r).key = s.key := rfl
@[simp] theorem State.fatalFault_kw (w : Option Word) (r : Raise) : (s.fatalFault w r).kw = s.kw := rfl
@[simp] theorem State.fatalFault_dirty (w : Option Word) (r : Raise) : (s.fatalFault w r).dirty = s.dirty := rfl
@[simp] theorem State.fatalFault_qcfg (w : Option Word) (r : Raise) : (s.fatalFault w r).qcfg = s.qcfg := rfl
@[simp] theorem State.fatalFault_paused (w : Option Word) (r : Raise) : (s.fatalFault w r).paused = s.paused := rfl
@[simp] theorem State.fatalFault_halted (w : Option Word) (r : Raise) : (s.fatalFault w r).halted = true := rfl
@[simp] theorem State.fatalFault_fault (w : Option Word) (r : Raise) : (s.fatalFault w r).fault = some ⟨r.kind, s.pc, w, r.info⟩ := rfl
@[simp] theorem State.fatalFault_unrec (w : Option Word) (r : Raise) : (s.fatalFault w r).unrec = s.unrec := rfl
@[simp] theorem State.fatalFault_ipf (w : Option Word) (r : Raise) : (s.fatalFault w r).ipf = s.ipf := rfl
@[simp] theorem State.fatalFault_phase (w : Option Word) (r : Raise) : (s.fatalFault w r).phase = s.phase := rfl
@[simp] theorem State.fatalFault_renders (w : Option Word) (r : Raise) : (s.fatalFault w r).renders = s.renders := rfl
@[simp] theorem State.fatalFault_rng (w : Option Word) (r : Raise) : (s.fatalFault w r).rng = s.rng := rfl
@[simp] theorem State.fatalFault_turns (w : Option Word) (r : Raise) : (s.fatalFault w r).turns = s.turns := rfl
@[simp] theorem State.fatalFault_polls (w : Option Word) (r : Raise) : (s.fatalFault w r).polls = s.polls := rfl

/-! ### takeTurn -/

@[simp] theorem State.takeTurn_v : s.takeTurn.v = s.v := rfl
@[simp] theorem State.takeTurn_index : s.takeTurn.index = s.index := rfl
@[simp] theorem State.takeTurn_pc : s.takeTurn.pc = s.pc := rfl
@[simp] theorem State.takeTurn_stack : s.takeTurn.stack = s.stack := rfl
@[simp] theorem State.takeTurn_sp : s.takeTurn.sp = s.sp := rfl
@[simp] theorem State.takeTurn_dt : s.takeTurn.dt = s.dt := rfl
@[simp] theorem State.takeTurn_st : s.takeTurn.st = s.st := rfl
@[simp] theorem State.takeTurn_mem : s.takeTurn.mem = s.mem := rfl
@[simp] theorem State.takeTurn_fb : s.takeTurn.fb = s.fb := rfl
@[simp] theorem State.takeTurn_key : s.takeTurn.key = s.key := rfl
@[simp] theorem State.takeTurn_kw : s.takeTurn.kw = s.kw := rfl
@[simp] theorem State.takeTurn_dirty : s.takeTurn.dirty = s.dirty := rfl
@[simp] theorem State.takeTurn_qcfg : s.takeTurn.qcfg = s.qcfg := rfl
@[simp] theorem State.takeTurn_paused : s.takeTurn.paused = s.paused := rfl
@[simp] theorem State.takeTurn_halted : s.takeTurn.halted = s.halted := rfl
@[simp] theorem State.takeTurn_fault : s.takeTurn.fault = s.fault := rfl
@[simp] theorem State.takeTurn_unrec : s.takeTurn.unrec = s.unrec := rfl
@[simp] theorem State.takeTurn_ipf : s.takeTurn.ipf = s.ipf := rfl
@[simp] theorem State.takeTurn_phase : s.takeTurn.phase = s.phase := rfl
@[simp] theorem State.takeTurn_renders : s.takeTurn.renders = s.renders := rfl
@[simp] theorem State.takeTurn_rng : s.takeTurn.rng = s.rng := rfl
@[simp] theorem State.takeTurn_turns : s.takeTurn.turns = s.turns.advance := rfl
@[simp] theorem State.takeTurn_polls : s.takeTurn.polls = s.polls := rfl

/-! ### tick -/

@[simp] theorem tick_v : (tick s).v = s.v := rfl
@[simp] theorem tick_index : (tick s).index = s.index := rfl
@[simp] theorem tick_pc : (tick s).pc = s.pc := rfl
@[simp] theorem tick_stack : (tick s).stack = s.stack := rfl
@[simp] theorem tick_sp : (tick s).sp = s.sp := rfl
@[simp] theorem tick_dt : (tick s).dt = countDown s.dt := rfl
@[simp] theorem tick_st : (tick s).st = countDown s.st := rfl
@[simp] theorem tick_mem : (tick s).mem = s.mem := rfl
@[simp] theorem tick_fb : (tick s).fb = s.fb := rfl
@[simp] theorem tick_key : (tick s).key = s.key := rfl
@[simp] theorem tick_kw : (tick s).kw = s.kw := rfl
@[simp] theorem tick_dirty : (tick s).dirty = s.dirty := rfl
@[simp] theorem tick_qcfg : (tick s).qcfg = s.qcfg := rfl
@[simp] theorem tick_paused : (tick s).paused = s.paused := rfl
@[simp] theorem tick_halted : (tick s).halted = s.halted := rfl
@[simp] theorem tick_fault : (tick s).fault = s.fault := rfl
@[simp] theorem tick_unrec : (tick s).unrec = s.unrec := rfl
@[simp] theorem tick_ipf : (tick s).ipf = s.ipf := rfl
@[simp] theorem tick_phase : (tick s).phase = s.phase := rfl
@[simp] theorem tick_renders : (tick s).renders = s.renders := rfl
@[simp] theorem tick_rng : (tick s).rng = s.rng := rfl
@[simp] theorem tick_turns : (tick s).turns = s.turns := rfl
@[simp] theorem tick_polls : (tick s).polls = s.polls := rfl

/-! ### Reading a general register after an update -/

theorem State.getV_eq_of_v {s t : State} (h : t.v = s.v) (r : Reg) : t.getV r = s.getV r := by
  simp only [State.getV, h]

@[simp] theorem State.getV_setV_same (r : Reg) (b : Byte) : (s.setV r b).getV r = b := by
  simp [State.getV]

theorem State.getV_setV (r q : Reg) (b : Byte) : (s.setV r b).getV q = if q = r then b else s.getV q := by
  by_cases h : q = r
  · subst h; simp
  · have h' : r.val ≠ q.val := fun e => h (Fin.ext e.symm)
    simp [State.getV, h, h']

theorem State.getV_setV_of_ne {r q : Reg} (b : Byte) (h : q ≠ r) : (s.setV r b).getV q = s.getV q := by
  simp [State.getV_setV, h]

theorem State.getV_setResultFlag (r q : Reg) (b f : Byte) :
    (s.setResultFlag r b f).getV q = if q = vF then f else if q = r then b else s.getV q := by
  simp [State.setResultFlag, State.getV_setV]

theorem State.getV_setFlagIf (c : Bool) (b : Byte) (q : Reg) :
    (s.setFlagIf c b).getV q = if c = true ∧ q = vF then b else s.getV q := by
  cases c <;> simp [State.setFlagIf, State.getV_setV]

theorem State.getV_loadRegs (l : List Byte) (q : Reg) : (s.loadRegs l).getV q = l.getD q.val (s.getV q) := by
  simp [State.getV, State.loadRegs]

theorem State.getV_drawSprite (x y : Nat) (l : List Byte) (q : Reg) (h : q ≠ vF) :
    (s.drawSprite x y l).getV q = s.getV q := by
  simp only [State.drawSprite]
  rw [State.getV_setV_of_ne _ _ h]
  rfl

@[simp] theorem State.getV_advance (q : Reg) : s.advance.getV q = s.getV q := State.getV_eq_of_v (by simp) q

@[simp] theorem State.getV_setPc (a : Addr) (q : Reg) : (s.setPc a).getV q = s.getV q := State.getV_eq_of_v (by simp) q

@[simp] theorem State.getV_refetch (q : Reg) : s.refetch.getV q = s.getV q := State.getV_eq_of_v (by simp) q

@[simp] theorem State.getV_skipIf (c : Bool) (q : Reg) : (s.skipIf c).getV q = s.getV q := State.getV_eq_of_v (by simp) q

@[simp] theorem State.getV_setIndex (i : Word) (q : Reg) : (s.setIndex i).getV q = s.getV q := State.getV_eq_of_v (by simp) q

@[simp] theorem State.getV_setMem (m : Memory) (q : Reg) : (s.setMem m).getV q = s.getV q := State.getV_eq_of_v (by simp) q

@[simp] theorem State.getV_takeDraw (q : Reg) : s.takeDraw.getV q = s.getV q := State.getV_eq_of_v (by simp) q

@[simp] theorem State.getV_setKw (p : KeyPhase) (k : Key) (q : Reg) : (s.setKw p k).getV q = s.getV q := State.getV_eq_of_v (by simp) q

@[simp] theorem State.getV_signalUnrecognized (w : Word) (q : Reg) : (s.signalUnrecognized w).getV q = s.getV q := State.getV_eq_of_v (by simp) q

@[simp] theorem State.getV_fatalFault (w : Option Word) (r : Raise) (q : Reg) : (s.fatalFault w r).getV q = s.getV q := State.getV_eq_of_v (by simp) q

@[simp] theorem State.getV_takeTurn (q : Reg) : s.takeTurn.getV q = s.getV q := State.getV_eq_of_v (by simp) q

@[simp] theorem getV_tick (q : Reg) : (tick s).getV q = s.getV q := rfl

end Sys2Proof.Machine
end

