-- ==== Sys2Proof/Laws/Ops.lean ====
section
/-!
SUPPORT. One lemma for each shared operation that says what it can do: oracles, the schedule, the end of an instruction, the
stack, the arithmetic laws, the key scan; and what exec, the CPU step and the machine's step can answer.
-/

namespace Sys2Proof.Machine

open Sys2Proof

/-! ### Oracles -/

@[simp] theorem Oracle.peek_fixed {α : Type} (free : Nat → α) (a : α) (l : List α) (n : Nat) :
    Oracle.peek free ⟨a :: l, n⟩ = a := rfl

@[simp] theorem Oracle.peek_free {α : Type} (free : Nat → α) (n : Nat) : Oracle.peek free ⟨[], n⟩ = free n := rfl

@[simp] theorem Oracle.advance_fixed {α : Type} (a : α) (l : List α) (n : Nat) :
    Oracle.advance ⟨a :: l, n⟩ = ⟨l, n⟩ := rfl

@[simp] theorem Oracle.advance_free {α : Type} (n : Nat) :
    Oracle.advance (⟨[], n⟩ : Oracle α) = ⟨[], n + 1⟩ := rfl

/-! ### The schedule -/

@[simp] theorem Schedule.next_fixed (a : Agent) (l : List Agent) (n k : Nat) : Schedule.next ⟨a :: l, n, k⟩ = a := rfl

@[simp] theorem Schedule.advance_fixed (a : Agent) (l : List Agent) (n k : Nat) :
    Schedule.advance ⟨a :: l, n, k⟩ = ⟨l, n, k⟩ := rfl

/-- A leading tick of a free round. -/
theorem Schedule.free_lead {n k : Nat} (h : k < Config.leadTicks n) :
    Schedule.next ⟨[], n, k⟩ = .timer ∧ Schedule.advance ⟨[], n, k⟩ = ⟨[], n, k + 1⟩ := by
  have : k < Schedule.beforeLast ⟨[], n, k⟩ := by simp only [Schedule.beforeLast]; omega
  simp [Schedule.next, Schedule.advance, this, Nat.not_le.mpr h]

/-- A driver turn of a free round. -/
theorem Schedule.free_driver {n k : Nat} (h : Config.leadTicks n ≤ k)
    (h' : k < Config.leadTicks n + (Config.extraDriverTurns n + 1)) :
    Schedule.next ⟨[], n, k⟩ = .driver ∧ Schedule.advance ⟨[], n, k⟩ = ⟨[], n, k + 1⟩ := by
  have : k < Schedule.beforeLast ⟨[], n, k⟩ := h'
  simp [Schedule.next, Schedule.advance, this, h]

/-- The tick that ends a free round. -/
theorem Schedule.free_last {n k : Nat} (h : Config.leadTicks n + (Config.extraDriverTurns n + 1) ≤ k) :
    Schedule.next ⟨[], n, k⟩ = .timer ∧ Schedule.advance ⟨[], n, k⟩ = ⟨[], n + 1, 0⟩ := by
  have : ¬ k < Schedule.beforeLast ⟨[], n, k⟩ := Nat.not_lt.mpr h
  simp [Schedule.next, Schedule.advance, this]

/-! ### The end of an instruction -/

@[simp] theorem conclude_ok (i : Instr) (s0 t : State) : conclude i s0 (.ok t) = .next t := rfl

@[simp] theorem conclude_error (i : Instr) (s0 : State) (r : Raise) :
    conclude i s0 (.error r) = .next (s0.fatalFault (some (encode i)) r) := rfl

/-- An instruction that may raise still answers a next state. -/
theorem conclude_next (i : Instr) (s0 : State) (body : Except Raise State) : ∃ t, conclude i s0 body = .next t := by
  cases body
  · exact ⟨_, rfl⟩
  · exact ⟨_, rfl⟩

/-! ### Call stack -/

theorem push_ok (s : State) (a : Addr) (h : s.sp.val < 16) :
    s.push a = .ok { s with stack := s.stack.set s.sp.val a, sp := ⟨s.sp.val + 1, by omega⟩ } := by
  simp [State.push, h]

theorem push_full (s : State) (a : Addr) (h : s.sp.val = 16) : s.push a = .error ⟨.stackOverflow, 16⟩ := by
  simp [State.push, h]

theorem pop_ok (s : State) (h : 0 < s.sp.val) :
    s.pop = .ok (s.stack[s.sp.val - 1]'(by omega), { s with sp := ⟨s.sp.val - 1, by omega⟩ }) := by
  simp [State.pop, h]

theorem pop_empty (s : State) (h : s.sp.val = 0) : s.pop = .error ⟨.stackUnderflow, 0⟩ := by
  simp [State.pop, h]

/-! ### Arithmetic laws -/

@[simp] theorem flagByte_true : flagByte true = 1#8 := rfl

@[simp] theorem flagByte_false : flagByte false = 0#8 := rfl

theorem addResult_toNat (a b : Byte) : (addResult a b).toNat = (a.toNat + b.toNat) % 256 := by
  simp [addResult]

theorem subResult_toNat (a b : Byte) : (subResult a b).toNat = (a.toNat + 256 - b.toNat) % 256 := by
  simp [subResult]

theorem shrResult_toNat (a : Byte) : (shrResult a).toNat = a.toNat / 2 := by
  have := a.isLt
  simp only [shrResult, BitVec.toNat_ofNat]
  omega

theorem shlResult_toNat (a : Byte) : (shlResult a).toNat = a.toNat * 2 % 256 := by
  simp [shlResult]

theorem countDown_toNat (t : Byte) : (countDown t).toNat = t.toNat - 1 := by
  have := t.isLt
  simp only [countDown, BitVec.toNat_ofNat]
  omega

/-! ### Keypad -/

theorem pressed_key (s : State) (v : Byte) (h : v.toNat < 16) : s.pressed v = s.key[v.toNat] := by
  simp [State.pressed, h]

theorem pressed_large (s : State) (v : Byte) (h : 16 ≤ v.toNat) : s.pressed v = false := by
  simp [State.pressed, Nat.not_lt.mpr h]

theorem firstPressed_none (s : State) (h : ∀ k : Key, s.key[k] = false) : s.firstPressed = none := by
  simp only [State.firstPressed, List.find?_eq_none]
  intro k _
  simp [h k]

theorem find_finRange {n : Nat} (p : Fin n → Bool) (k : Fin n) (hk : p k = true)
    (hl : ∀ j : Fin n, j < k → p j = false) : (List.finRange n).find? p = some k := by
  rw [List.find?_eq_some_iff_getElem]
  refine ⟨hk, k.val, by simp, by simp, fun j hj => ?_⟩
  have hj' : j < n := Nat.lt_trans hj k.isLt
  simpa using hl ⟨j, hj'⟩ (by simpa [Fin.lt_def] using hj)

theorem firstPressed_some (s : State) (k : Key) (hk : s.key[k] = true)
    (hl : ∀ j : Key, j < k → s.key[j] = false) : s.firstPressed = some k :=
  find_finRange (fun k => s.key[k]) k hk hl

/-- The scan's outcome: no key pressed, or the least pressed key. -/
theorem firstPressed_cases (s : State) :
    (s.firstPressed = none ∧ ∀ k : Key, s.key[k] = false) ∨
    ∃ k : Key, s.firstPressed = some k ∧ s.key[k] = true := by
  cases h : s.firstPressed with
  | none =>
    refine .inl ⟨rfl, fun k => ?_⟩
    simp only [State.firstPressed, List.find?_eq_none] at h
    simpa using h k (by simp)
  | some k => exact .inr ⟨k, rfl, by simpa using List.find?_some h⟩

/-! ### exec and the steps -/

/-- Every instruction answers a next state, in every state. -/
theorem exec_next (i : Instr) (s : State) : ∃ t, exec i s = .next t := by
  cases i
  case ret => exact conclude_next _ _ _
  case call => exact conclude_next _ _ _
  case ldBX => exact conclude_next _ _ _
  case ldMemX => exact conclude_next _ _ _
  case ldXMem => exact conclude_next _ _ _
  case drw => exact conclude_next _ _ _
  all_goals exact ⟨_, rfl⟩

/-- A CPU step is a fetch fault, an unrecognized word, or the fetched instruction. -/
theorem cpuStep_cases (s : State) :
    (∃ r, fetch s.mem s.pc = .error r ∧ cpuStep s = .next (s.fatalFault none r)) ∨
    (∃ w u, fetch s.mem s.pc = .ok w ∧ decode w = .unrecognized u ∧ cpuStep s = .next (s.signalUnrecognized u)) ∨
    ∃ w i, fetch s.mem s.pc = .ok w ∧ decode w = .instr i ∧ cpuStep s = exec i s := by
  cases hf : fetch s.mem s.pc with
  | error r => exact .inl ⟨r, rfl, by simp [cpuStep, hf]⟩
  | ok w =>
    cases hd : decode w with
    | unrecognized u => exact .inr (.inl ⟨w, u, rfl, hd, by simp [cpuStep, hf, hd]⟩)
    | instr i => exact .inr (.inr ⟨w, i, rfl, hd, by simp [cpuStep, hf, hd]⟩)

theorem cpuStep_next (s : State) : ∃ t, cpuStep s = .next t := by
  rcases cpuStep_cases s with ⟨r, -, h⟩ | ⟨w, u, -, -, h⟩ | ⟨w, i, -, -, h⟩
  · exact ⟨_, h⟩
  · exact ⟨_, h⟩
  · exact h ▸ exec_next i s

theorem step_halted {s : State} (hh : s.halted = true) : step s = .fault .halted := by
  simp [step, agentStep, hh]

theorem step_timer {s : State} (hh : s.halted = false) (ha : s.nextAgent = .timer) :
    step s = .next (tick s.takeTurn) := by
  simp [step, agentStep, hh, ha]

theorem step_poll {s : State} (hh : s.halted = false) (ha : s.nextAgent = .driver) (hp : s.phase = .poll) :
    step s = .next { poll s.takeTurn with phase := (poll s.takeTurn).phaseAfterPoll } := by
  simp [step, agentStep, driverStep, hh, ha, hp]

theorem step_execute {s : State} {n : Nat} (hh : s.halted = false) (ha : s.nextAgent = .driver)
    (hp : s.phase = .execute n) : step s = cpuStep { s.takeTurn with phase := Phase.afterBudget n } := by
  simp [step, agentStep, driverStep, hh, ha, hp]

theorem step_present {s : State} (hh : s.halted = false) (ha : s.nextAgent = .driver) (hp : s.phase = .present) :
    step s = .next { present s.takeTurn with phase := .poll } := by
  simp [step, agentStep, driverStep, hh, ha, hp]

/-- What a step can do: stop on a halted machine, or take one atomic step of one agent. -/
theorem step_cases (s : State) :
    (s.halted = true ∧ step s = .fault .halted) ∨
    (s.halted = false ∧
      ((s.nextAgent = .timer ∧ step s = .next (tick s.takeTurn)) ∨
       (s.nextAgent = .driver ∧ s.phase = .poll ∧
          step s = .next { poll s.takeTurn with phase := (poll s.takeTurn).phaseAfterPoll }) ∨
       (∃ n, s.nextAgent = .driver ∧ s.phase = .execute n ∧
          step s = cpuStep { s.takeTurn with phase := Phase.afterBudget n }) ∨
       (s.nextAgent = .driver ∧ s.phase = .present ∧
          step s = .next { present s.takeTurn with phase := .poll }))) := by
  cases hh : s.halted
  · refine .inr ⟨rfl, ?_⟩
    cases ha : s.nextAgent
    · cases hp : s.phase
      · exact .inr (.inl ⟨rfl, rfl, step_poll hh ha hp⟩)
      · exact .inr (.inr (.inl ⟨_, rfl, rfl, step_execute hh ha hp⟩))
      · exact .inr (.inr (.inr ⟨rfl, rfl, step_present hh ha hp⟩))
    · exact .inl ⟨rfl, step_timer hh ha⟩
  · exact .inl ⟨rfl, step_halted hh⟩

end Sys2Proof.Machine
end

