-- ==== Sys2Proof/Laws/Display.lean ====
section
/-!
SUPPORT. The grid, the sprite draw as one fold over its set bits with what that fold does to every cell, and the change record.
-/

namespace Sys2Proof

/-! ### The grid -/

theorem Grid.cell_setCell (g : Grid) (x y x' y' : Nat) (b : Bool) :
    (g.setCell x y b).cell x' y' = if x < 64 ∧ y < 32 ∧ x' = x ∧ y' = y then b else g.cell x' y' := by
  by_cases h : x < 64 ∧ y < 32
  · simp only [Grid.setCell, dif_pos h]
    by_cases h' : x' < 64 ∧ y' < 32
    · simp only [Grid.cell, dif_pos h', Vector.getElem_set]
      by_cases ey : y = y'
      · subst ey
        by_cases ex : x = x'
        · subst ex; simp [h]
        · simp [ex, Ne.symm ex]
      · simp [ey, Ne.symm ey]
    · have : ¬ (x < 64 ∧ y < 32 ∧ x' = x ∧ y' = y) := by omega
      simp only [Grid.cell, dif_neg h', if_neg this]
  · have : ¬ (x < 64 ∧ y < 32 ∧ x' = x ∧ y' = y) := fun k => h ⟨k.1, k.2.1⟩
    simp only [Grid.setCell, dif_neg h, if_neg this]

theorem Grid.cell_outside (g : Grid) (x y : Nat) (h : ¬ (x < 64 ∧ y < 32)) : g.cell x y = false := by
  simp only [Grid.cell, dif_neg h]

@[simp] theorem Grid.cell_clear (x y : Nat) : Grid.clear.cell x y = false := by
  simp only [Grid.cell, Grid.clear]
  split <;> simp

/-- The cells determine the grid. -/
theorem Grid.ext_cell {g g' : Grid} (h : ∀ x y, x < 64 → y < 32 → g.cell x y = g'.cell x y) : g = g' := by
  obtain ⟨r⟩ := g
  obtain ⟨r'⟩ := g'
  congr 1
  apply Vector.ext
  intro y hy
  apply Vector.ext
  intro x hx
  have := h x y hx hy
  simpa only [Grid.cell, hx, hy, and_self, dite_true] using this

theorem Grid.anyCell_iff (g : Grid) : g.anyCell = true ↔ ∃ x y, x < 64 ∧ y < 32 ∧ g.cell x y = true := by
  simp only [Grid.anyCell, List.any_eq_true, List.mem_range]
  constructor
  · rintro ⟨y, hy, x, hx, h⟩; exact ⟨x, y, hx, hy, h⟩
  · rintro ⟨x, y, hx, hy, h⟩; exact ⟨y, hy, x, hx, h⟩

end Sys2Proof

namespace Sys2Proof.Machine

open Sys2Proof

/-! ### The draw as a fold over set bits -/

/-- The cell a set bit at (px, py) falls on: wrapped or not (44_display.md R194). -/
def spriteTarget (wrap : Bool) (p : Nat × Nat) : Nat × Nat := if wrap then (p.1 % 64, p.2 % 32) else p

/-- The set bits of the sprite's rows from (x0, y0) on, in drawing order. -/
def spriteBits (x0 y0 : Nat) (rows : List Byte) : List (Nat × Nat) :=
  match rows with
  | [] => []
  | row :: rest => ((List.range 8).filter (spriteBit row)).map (fun k => (x0 + k, y0)) ++ spriteBits x0 (y0 + 1) rest

/-- The draw of a list of set bits. -/
def Canvas.plots (c : Canvas) (wrap : Bool) (ps : List (Nat × Nat)) : Canvas :=
  ps.foldl (fun c p => c.plot wrap p.1 p.2) c

theorem foldl_if_filter {α β : Type} (l : List α) (p : α → Bool) (f : β → α → β) (b : β) :
    l.foldl (fun c a => if p a then f c a else c) b = (l.filter p).foldl f b := by
  induction l generalizing b with
  | nil => rfl
  | cons a rest ih =>
    cases h : p a
    · simp [h, ih]
    · simp [h, ih]

theorem drawRow_eq_plots (c : Canvas) (wrap : Bool) (x0 py : Nat) (row : Byte) :
    c.drawRow wrap x0 py row = c.plots wrap (((List.range 8).filter (spriteBit row)).map fun k => (x0 + k, py)) := by
  rw [Canvas.drawRow, Canvas.plots, List.foldl_map]
  exact foldl_if_filter (List.range 8) (spriteBit row) (fun c k => c.plot wrap (x0 + k) py) c

/-- A sprite draw is the plot of its set bits in order. -/
theorem drawRows_eq_plots (c : Canvas) (wrap : Bool) (x0 y0 : Nat) (rows : List Byte) :
    c.drawRows wrap x0 y0 rows = c.plots wrap (spriteBits x0 y0 rows) := by
  induction rows generalizing c y0 with
  | nil => rfl
  | cons row rest ih =>
    rw [Canvas.drawRows, ih, drawRow_eq_plots, spriteBits, Canvas.plots, Canvas.plots, Canvas.plots, List.foldl_append]

/-! ### What a plot does -/

theorem plot_eq (c : Canvas) (wrap : Bool) (p : Nat × Nat) :
    c.plot wrap p.1 p.2 =
      if (spriteTarget wrap p).1 < 64 ∧ (spriteTarget wrap p).2 < 32 then
        ⟨c.fb.setCell (spriteTarget wrap p).1 (spriteTarget wrap p).2
            (!c.fb.cell (spriteTarget wrap p).1 (spriteTarget wrap p).2),
          c.cells.setCell (spriteTarget wrap p).1 (spriteTarget wrap p).2 true,
          c.hit || c.fb.cell (spriteTarget wrap p).1 (spriteTarget wrap p).2⟩
      else c := by
  cases wrap <;> rfl

theorem plot_fb (c : Canvas) (wrap : Bool) (p : Nat × Nat) (x y : Nat) :
    (c.plot wrap p.1 p.2).fb.cell x y =
      if x < 64 ∧ y < 32 ∧ (x, y) = spriteTarget wrap p then !c.fb.cell x y else c.fb.cell x y := by
  rw [plot_eq]
  obtain ⟨tx, ty⟩ := spriteTarget wrap p
  simp only [Prod.mk.injEq]
  split
  · rename_i h
    rw [Grid.cell_setCell]
    by_cases e : x = tx ∧ y = ty
    · obtain ⟨rfl, rfl⟩ := e; simp [h]
    · simp [e]
  · rename_i h
    have : ¬ (x < 64 ∧ y < 32 ∧ x = tx ∧ y = ty) := by omega
    rw [if_neg this]

theorem plot_cells (c : Canvas) (wrap : Bool) (p : Nat × Nat) (x y : Nat) :
    (c.plot wrap p.1 p.2).cells.cell x y =
      (c.cells.cell x y || decide (x < 64 ∧ y < 32 ∧ (x, y) = spriteTarget wrap p)) := by
  rw [plot_eq]
  obtain ⟨tx, ty⟩ := spriteTarget wrap p
  simp only [Prod.mk.injEq]
  split
  · rename_i h
    rw [Grid.cell_setCell]
    by_cases e : x = tx ∧ y = ty
    · obtain ⟨rfl, rfl⟩ := e; simp [h]
    · simp [e]
  · rename_i h
    have : ¬ (x < 64 ∧ y < 32 ∧ x = tx ∧ y = ty) := by omega
    rw [decide_eq_false this, Bool.or_false]

theorem plot_hit (c : Canvas) (wrap : Bool) (p : Nat × Nat) :
    (c.plot wrap p.1 p.2).hit = (c.hit || c.fb.cell (spriteTarget wrap p).1 (spriteTarget wrap p).2) := by
  rw [plot_eq]
  split
  · rfl
  · rename_i h; simp [Grid.cell_outside _ _ _ h]

/-! ### What the draw does, where no cell is hit twice -/

theorem plots_fb (c : Canvas) (wrap : Bool) (ps : List (Nat × Nat)) (hn : (ps.map (spriteTarget wrap)).Nodup) (x y : Nat) :
    (c.plots wrap ps).fb.cell x y =
      if x < 64 ∧ y < 32 ∧ (x, y) ∈ ps.map (spriteTarget wrap) then !c.fb.cell x y else c.fb.cell x y := by
  induction ps generalizing c with
  | nil => simp [Canvas.plots]
  | cons p rest ih =>
    obtain ⟨hp, hr⟩ := List.nodup_cons.mp hn
    show ((c.plot wrap p.1 p.2).plots wrap rest).fb.cell x y = _
    rw [ih _ hr, plot_fb]
    by_cases hi : x < 64 ∧ y < 32
    · by_cases e : (x, y) = spriteTarget wrap p
      · have hm : (x, y) ∉ rest.map (spriteTarget wrap) := by rw [e]; exact hp
        rw [if_neg (fun k => hm k.2.2), if_pos ⟨hi.1, hi.2, e⟩,
          if_pos ⟨hi.1, hi.2, by rw [e]; exact List.mem_cons_self⟩]
      · have hw : ¬ (x < 64 ∧ y < 32 ∧ (x, y) = spriteTarget wrap p) := fun k => e k.2.2
        rw [if_neg hw, List.map_cons]
        simp only [List.mem_cons, e, false_or]
    · simp only [Grid.cell_outside _ _ _ hi]
      have h1 : ∀ P : Prop, ¬ (x < 64 ∧ y < 32 ∧ P) := fun P k => hi ⟨k.1, k.2.1⟩
      simp [h1]

theorem plots_cells (c : Canvas) (wrap : Bool) (ps : List (Nat × Nat)) (x y : Nat) :
    (c.plots wrap ps).cells.cell x y =
      (c.cells.cell x y || decide (x < 64 ∧ y < 32 ∧ (x, y) ∈ ps.map (spriteTarget wrap))) := by
  induction ps generalizing c with
  | nil => simp [Canvas.plots]
  | cons p rest ih =>
    show ((c.plot wrap p.1 p.2).plots wrap rest).cells.cell x y = _
    rw [ih, plot_cells, Bool.or_assoc]
    congr 1
    simp only [List.map_cons, List.mem_cons, ← Bool.decide_or]
    apply decide_eq_decide.mpr
    show (x < 64 ∧ y < 32 ∧ (x, y) = spriteTarget wrap p) ∨ _ ↔ _
    tauto

theorem plots_hit (c : Canvas) (wrap : Bool) (ps : List (Nat × Nat)) (hn : (ps.map (spriteTarget wrap)).Nodup) :
    (c.plots wrap ps).hit = (c.hit || (ps.map (spriteTarget wrap)).any fun q => c.fb.cell q.1 q.2) := by
  induction ps generalizing c with
  | nil => simp [Canvas.plots]
  | cons p rest ih =>
    obtain ⟨hp, hr⟩ := List.nodup_cons.mp hn
    show ((c.plot wrap p.1 p.2).plots wrap rest).hit = _
    rw [ih _ hr, plot_hit, List.map_cons, List.any_cons, Bool.or_assoc]
    congr 2
    rw [Bool.eq_iff_iff, List.any_eq_true, List.any_eq_true]
    refine exists_congr fun q => and_congr_right fun hq => ?_
    have : ¬ (q.1, q.2) = spriteTarget wrap p := by
      intro e; exact hp (by rw [← e]; exact hq)
    simp [plot_fb, this]

/-! ### The set bits of a sprite -/

theorem mem_spriteBits (x0 y0 : Nat) (rows : List Byte) (p : Nat × Nat) :
    p ∈ spriteBits x0 y0 rows ↔
      ∃ r c, ∃ h : r < rows.length, c < 8 ∧ spriteBit rows[r] c = true ∧ p = (x0 + c, y0 + r) := by
  induction rows generalizing y0 with
  | nil => simp [spriteBits]
  | cons row rest ih =>
    simp only [spriteBits, List.mem_append, List.mem_map, List.mem_filter, List.mem_range, ih]
    constructor
    · rintro (⟨c, ⟨hc, hb⟩, rfl⟩ | ⟨r, c, h, hc, hb, rfl⟩)
      · exact ⟨0, c, by simp, hc, by simpa using hb, rfl⟩
      · exact ⟨r + 1, c, by simpa using h, hc, by simpa using hb, by simp; omega⟩
    · rintro ⟨r, c, h, hc, hb, rfl⟩
      cases r with
      | zero => exact .inl ⟨c, ⟨hc, by simpa using hb⟩, rfl⟩
      | succ r => exact .inr ⟨r, c, by simpa using h, hc, by simpa using hb, by simp; omega⟩

theorem spriteTarget_inj {wrap : Bool} {x0 y0 c c' r r' : Nat} (hc : c < 8) (hc' : c' < 8)
    (hr : r < 32) (hr' : r' < 32)
    (h : spriteTarget wrap (x0 + c, y0 + r) = spriteTarget wrap (x0 + c', y0 + r')) : c = c' ∧ r = r' := by
  cases wrap
  · simp only [spriteTarget, Bool.false_eq_true, if_false, Prod.mk.injEq] at h
    omega
  · simp only [spriteTarget, if_true, Prod.mk.injEq] at h
    omega

/-- No cell is hit twice in one draw (44_display.md R193): the sprite is 8 columns wide and at most 32 rows tall. -/
theorem spriteBits_nodup (wrap : Bool) (x0 y0 k : Nat) (rows : List Byte) (hl : k + rows.length ≤ 32) :
    ((spriteBits x0 (y0 + k) rows).map (spriteTarget wrap)).Nodup := by
  induction rows generalizing k with
  | nil => simp [spriteBits]
  | cons row rest ih =>
    simp only [List.length_cons] at hl
    have hr := ih (k + 1) (by omega)
    simp only [spriteBits, List.map_append, List.nodup_append]
    refine ⟨?_, hr, ?_⟩
    · rw [List.map_map]
      refine (List.nodup_map_iff_inj_on (List.nodup_range.filter _)).mpr fun c hc c' hc' e => ?_
      simp only [List.mem_filter, List.mem_range] at hc hc'
      exact (spriteTarget_inj hc.1 hc'.1 (by omega : k < 32) (by omega : k < 32) e).1
    · intro a ha b hb e
      subst e
      simp only [List.mem_map, List.mem_filter, List.mem_range] at ha
      obtain ⟨p, ⟨c, ⟨hc, -⟩, rfl⟩, rfl⟩ := ha
      obtain ⟨p, hp, e⟩ := List.mem_map.mp hb
      obtain ⟨r, c', hlen, hc', -, rfl⟩ := (mem_spriteBits _ _ _ _).mp hp
      rw [show y0 + k + 1 + r = y0 + (k + 1 + r) by omega] at e
      have := (spriteTarget_inj hc' hc (by omega : k + 1 + r < 32) (by omega : k < 32) e).2
      omega

theorem spriteBits_nodup_zero (wrap : Bool) (x0 y0 : Nat) (rows : List Byte) (hl : rows.length ≤ 32) :
    ((spriteBits x0 y0 rows).map (spriteTarget wrap)).Nodup :=
  spriteBits_nodup wrap x0 y0 0 rows (by omega)

/-! ### The draw on the state -/

theorem drawSprite_fb (s : State) (x0 y0 : Nat) (rows : List Byte) (hl : rows.length ≤ 32) (x y : Nat) :
    (s.drawSprite x0 y0 rows).fb.cell x y =
      if x < 64 ∧ y < 32 ∧ (x, y) ∈ (spriteBits x0 y0 rows).map (spriteTarget s.qcfg.spriteWrap)
      then !s.fb.cell x y else s.fb.cell x y := by
  show ((Canvas.mk s.fb s.dirty.cells false).drawRows s.qcfg.spriteWrap x0 y0 rows).fb.cell x y = _
  rw [drawRows_eq_plots, plots_fb _ _ _ (spriteBits_nodup_zero _ x0 y0 rows hl)]

theorem drawSprite_dirty (s : State) (x0 y0 : Nat) (rows : List Byte) :
    (s.drawSprite x0 y0 rows).dirty.whole = s.dirty.whole ∧
    ∀ x y, (s.drawSprite x0 y0 rows).dirty.cells.cell x y =
      (s.dirty.cells.cell x y ||
        decide (x < 64 ∧ y < 32 ∧ (x, y) ∈ (spriteBits x0 y0 rows).map (spriteTarget s.qcfg.spriteWrap))) := by
  refine ⟨rfl, fun x y => ?_⟩
  show ((Canvas.mk s.fb s.dirty.cells false).drawRows s.qcfg.spriteWrap x0 y0 rows).cells.cell x y = _
  rw [drawRows_eq_plots, plots_cells]

theorem drawSprite_flag (s : State) (x0 y0 : Nat) (rows : List Byte) (hl : rows.length ≤ 32) :
    (s.drawSprite x0 y0 rows).getV vF =
      flagByte (((spriteBits x0 y0 rows).map (spriteTarget s.qcfg.spriteWrap)).any fun q => s.fb.cell q.1 q.2) := by
  rw [State.drawSprite]
  simp only []
  rw [State.getV_setV_same, drawRows_eq_plots, plots_hit _ _ _ (spriteBits_nodup_zero _ x0 y0 rows hl),
    Bool.false_or]

/-! ### The change record -/

theorem Dirty.hasChanges_iff (d : Dirty) :
    d.hasChanges = true ↔ d.whole = true ∨ ∃ x y, x < 64 ∧ y < 32 ∧ d.cells.cell x y = true := by
  simp [Dirty.hasChanges, Grid.anyCell_iff]

theorem mem_canonicalCover (g : Grid) (r : Region) :
    r ∈ canonicalCover g ↔ ∃ x y, x < 64 ∧ y < 32 ∧ g.cell x y = true ∧ r = ⟨x, y, 1, 1⟩ := by
  simp only [canonicalCover, List.mem_flatMap, List.mem_filterMap, List.mem_range]
  constructor
  · rintro ⟨y, hy, x, hx, h⟩
    split at h
    · rename_i hc
      exact ⟨x, y, hx, hy, hc, by simpa using h.symm⟩
    · cases h
  · rintro ⟨x, y, hx, hy, hc, rfl⟩
    exact ⟨y, hy, x, hx, by simp [hc]⟩

/-- REGION_COVER is a cover that R199 allows, whatever the implementation proposes: its rectangles lie in the grid, cover every
true cell, and there is none when no cell is true. -/
theorem regionCover_spec (n : Nat) (g : Grid) :
    (∀ r ∈ regionCover n g, r.inGrid = true) ∧
    (∀ x y, x < 64 → y < 32 → g.cell x y = true → ∃ r ∈ regionCover n g, r.covers x y = true) ∧
    (g.anyCell = false → regionCover n g = []) := by
  simp only [regionCover]
  split
  · rename_i h
    simp only [coverAllowed, Bool.and_eq_true, List.all_eq_true, List.mem_range, Bool.or_eq_true, Bool.not_eq_true',
      List.any_eq_true, List.isEmpty_iff] at h
    obtain ⟨⟨h1, h2⟩, h3⟩ := h
    refine ⟨h1, fun x y hx hy hc => ?_, fun hn => ?_⟩
    · rcases h2 y hy x hx with h | h
      · rw [hc] at h; cases h
      · exact h
    · rcases h3 with h | h
      · rw [hn] at h; cases h
      · exact h
  · refine ⟨fun r hr => ?_, fun x y hx hy hc => ?_, fun hn => ?_⟩
    · obtain ⟨x, y, hx, hy, -, rfl⟩ := (mem_canonicalCover g r).mp hr
      simp [Region.inGrid]; omega
    · exact ⟨⟨x, y, 1, 1⟩, (mem_canonicalCover g _).mpr ⟨x, y, hx, hy, hc, rfl⟩, by simp [Region.covers]⟩
    · apply List.eq_nil_iff_forall_not_mem.mpr
      intro r hr
      obtain ⟨x, y, hx, hy, hc, -⟩ := (mem_canonicalCover g r).mp hr
      have := (Grid.anyCell_iff g).mpr ⟨x, y, hx, hy, hc⟩
      rw [hn] at this; cases this

end Sys2Proof.Machine
end

