-- ==== Sys2Proof/Laws/PerInstr.lean ====
section
/-!
SUPPORT. Statements about every instruction, one lemma per constructor. TableRow: the encoder's word lies in the instruction's
row of spec/opcode_table.json (mask and match, 30_encoding.md R78).
-/

namespace Sys2Proof.Laws.TableRow

open Sys2Proof

/-- The word of the instruction, under its row's mask, is its row's match. -/
def Statement (i : Instr) : Prop := encode i &&& (tableRow i).1 = (tableRow i).2

theorem mask_NNN (op : Nibble) (nnn : Addr) : wordNNN op nnn &&& 0xF000#16 = wordNNN op 0#12 := by
  show op ++ nnn &&& (0xF#4 ++ 0x000#12) = op ++ 0#12
  rw [BitVec.and_append, BitVec.and_zero, show (0xF#4 : Nibble) = BitVec.allOnes 4 from rfl, BitVec.and_allOnes]

theorem mask_XNN (op : Nibble) (x : Reg) (nn : Byte) : wordXNN op x nn &&& 0xF000#16 = wordXNN op 0 0#8 := by
  show op ++ regBits x ++ nn &&& (0xF#4 ++ 0x0#4 ++ 0x00#8) = op ++ 0#4 ++ 0#8
  rw [BitVec.and_append, BitVec.and_append, BitVec.and_zero, BitVec.and_zero,
    show (0xF#4 : Nibble) = BitVec.allOnes 4 from rfl, BitVec.and_allOnes]

theorem mask_XK (op : Nibble) (x : Reg) (k : Byte) : wordXNN op x k &&& 0xF0FF#16 = wordXNN op 0 k := by
  show op ++ regBits x ++ k &&& (0xF#4 ++ 0x0#4 ++ 0xFF#8) = op ++ 0#4 ++ k
  rw [BitVec.and_append, BitVec.and_append, BitVec.and_zero, show (0xFF#8 : Byte) = BitVec.allOnes 8 from rfl,
    show (0xF#4 : Nibble) = BitVec.allOnes 4 from rfl, BitVec.and_allOnes, BitVec.and_allOnes]

theorem mask_XY (op : Nibble) (x y : Reg) (n : Nibble) : wordXYN op x y n &&& 0xF00F#16 = wordXYN op 0 0 n := by
  show op ++ regBits x ++ regBits y ++ n &&& (0xF#4 ++ 0x0#4 ++ 0x0#4 ++ 0xF#4) = op ++ 0#4 ++ 0#4 ++ n
  rw [BitVec.and_append, BitVec.and_append, BitVec.and_append, BitVec.and_zero, BitVec.and_zero,
    show (0xF#4 : Nibble) = BitVec.allOnes 4 from rfl, BitVec.and_allOnes, BitVec.and_allOnes]

theorem mask_XYN (op : Nibble) (x y : Reg) (n : Nibble) : wordXYN op x y n &&& 0xF000#16 = wordXYN op 0 0 0#4 := by
  show op ++ regBits x ++ regBits y ++ n &&& (0xF#4 ++ 0x0#4 ++ 0x0#4 ++ 0x0#4) = op ++ 0#4 ++ 0#4 ++ 0#4
  rw [BitVec.and_append, BitVec.and_append, BitVec.and_append, BitVec.and_zero, BitVec.and_zero, BitVec.and_zero,
    show (0xF#4 : Nibble) = BitVec.allOnes 4 from rfl, BitVec.and_allOnes]

theorem cls : Statement .cls := rfl
theorem ret : Statement .ret := rfl
theorem jp (nnn : Addr) : Statement (.jp nnn) := (mask_NNN _ nnn).trans rfl
theorem call (nnn : Addr) : Statement (.call nnn) := (mask_NNN _ nnn).trans rfl
theorem seImm (x : Reg) (nn : Byte) : Statement (.seImm x nn) := (mask_XNN _ x nn).trans rfl
theorem sneImm (x : Reg) (nn : Byte) : Statement (.sneImm x nn) := (mask_XNN _ x nn).trans rfl
theorem seReg (x : Reg) (y : Reg) : Statement (.seReg x y) := (mask_XY _ x y _).trans rfl
theorem ldImm (x : Reg) (nn : Byte) : Statement (.ldImm x nn) := (mask_XNN _ x nn).trans rfl
theorem addImm (x : Reg) (nn : Byte) : Statement (.addImm x nn) := (mask_XNN _ x nn).trans rfl
theorem ldReg (x : Reg) (y : Reg) : Statement (.ldReg x y) := (mask_XY _ x y _).trans rfl
theorem or (x : Reg) (y : Reg) : Statement (.or x y) := (mask_XY _ x y _).trans rfl
theorem and (x : Reg) (y : Reg) : Statement (.and x y) := (mask_XY _ x y _).trans rfl
theorem xor (x : Reg) (y : Reg) : Statement (.xor x y) := (mask_XY _ x y _).trans rfl
theorem addReg (x : Reg) (y : Reg) : Statement (.addReg x y) := (mask_XY _ x y _).trans rfl
theorem sub (x : Reg) (y : Reg) : Statement (.sub x y) := (mask_XY _ x y _).trans rfl
theorem shr (x : Reg) (y : Reg) : Statement (.shr x y) := (mask_XY _ x y _).trans rfl
theorem subn (x : Reg) (y : Reg) : Statement (.subn x y) := (mask_XY _ x y _).trans rfl
theorem shl (x : Reg) (y : Reg) : Statement (.shl x y) := (mask_XY _ x y _).trans rfl
theorem sneReg (x : Reg) (y : Reg) : Statement (.sneReg x y) := (mask_XY _ x y _).trans rfl
theorem ldI (nnn : Addr) : Statement (.ldI nnn) := (mask_NNN _ nnn).trans rfl
theorem jpV0 (nnn : Addr) : Statement (.jpV0 nnn) := (mask_NNN _ nnn).trans rfl
theorem rnd (x : Reg) (nn : Byte) : Statement (.rnd x nn) := (mask_XNN _ x nn).trans rfl
theorem drw (x : Reg) (y : Reg) (n : Nibble) : Statement (.drw x y n) := (mask_XYN _ x y n).trans rfl
theorem skp (x : Reg) : Statement (.skp x) := (mask_XK _ x _).trans rfl
theorem sknp (x : Reg) : Statement (.sknp x) := (mask_XK _ x _).trans rfl
theorem ldXDt (x : Reg) : Statement (.ldXDt x) := (mask_XK _ x _).trans rfl
theorem ldXK (x : Reg) : Statement (.ldXK x) := (mask_XK _ x _).trans rfl
theorem ldDtX (x : Reg) : Statement (.ldDtX x) := (mask_XK _ x _).trans rfl
theorem ldStX (x : Reg) : Statement (.ldStX x) := (mask_XK _ x _).trans rfl
theorem addIX (x : Reg) : Statement (.addIX x) := (mask_XK _ x _).trans rfl
theorem ldFX (x : Reg) : Statement (.ldFX x) := (mask_XK _ x _).trans rfl
theorem ldBX (x : Reg) : Statement (.ldBX x) := (mask_XK _ x _).trans rfl
theorem ldMemX (x : Reg) : Statement (.ldMemX x) := (mask_XK _ x _).trans rfl
theorem ldXMem (x : Reg) : Statement (.ldXMem x) := (mask_XK _ x _).trans rfl

end Sys2Proof.Laws.TableRow
end

