-- ==== Sys2Proof/Tests/Slice0.lean ====
section
/-!
SUPPORT. The model's own tests. The expected results are those of 95_test_vectors.md (its vectors are worked out by hand from
the rules) or are worked out here from the rule a comment names. After them, one or more witnesses for every statement of
Certificates/Slice0/Obligations.lean that has hypotheses: a concrete state and operands that meet them together, at the ends of
a range where a hypothesis is a range.
-/

namespace Sys2Proof.Tests

open Sys2Proof
open Sys2Proof.Machine

set_option Elab.async false

/-! ### Helpers -/

/-- Every quirk on. -/
def quirksOn : Quirks := ⟨true, true, true, true, true, true⟩

/-- The created machine with some registers set, the driver about to take a CPU step. -/
def start (regs : List (Reg × Byte)) : State :=
  regs.foldl (fun s p => s.setV p.1 p.2)
    { State.reset with phase := .execute 0, turns := ⟨[.driver], 0, 0⟩ }

/-- The same machine with every quirk on. -/
def startOn (regs : List (Reg × Byte)) : State := { start regs with qcfg := quirksOn }

/-- What a view of the state shows after the one step that fetches and runs the word w. -/
def look {α : Type} (f : State → α) (s : State) (w : Nat) : Option α :=
  match step (s.withFetchWord 16 w) with
  | .next t => some (f t)
  | _ => none

/-- The cells in the first w columns and h rows of a grid that are on, as (column, row), row by row. -/
def onCells (w h : Nat) (g : Grid) : List (Nat × Nat) :=
  (List.range h).flatMap fun y => (List.range w).filterMap fun x => if g.cell x y then some (x, y) else none

/-- The grid with the given cells on. -/
def gridOf (l : List (Nat × Nat)) : Grid := l.foldl (fun g p => g.setCell p.1 p.2 true) Grid.clear

/-- Keys pressed. -/
def keysOf (l : List Nat) : Vector Bool 16 := Vector.ofFn fun k : Fin 16 => l.contains k.val

/-- Glyph 0 drawn at (5, 0): the 14 cells of L1-S1. -/
def glyph0At5 : List (Nat × Nat) :=
  [(5, 0), (6, 0), (7, 0), (8, 0), (5, 1), (8, 1), (5, 2), (8, 2), (5, 3), (8, 3), (5, 4), (6, 4), (7, 4), (8, 4)]

/-! ### Well-formedness (R82): an ill-formed word for each clause, refused by the check and by the decoder -/

theorem test_illformed_sysCall : UnrecognizedClause.sysCall.lists 0x0123#16 = true ∧ wellFormedWord 0x0123#16 = false ∧
    decode 0x0123#16 = .unrecognized 0x0123#16 := by decide

theorem test_illformed_group5 : UnrecognizedClause.group5.lists 0x5121#16 = true ∧ wellFormedWord 0x5121#16 = false ∧
    decode 0x5121#16 = .unrecognized 0x5121#16 := by decide

theorem test_illformed_group8 : UnrecognizedClause.group8.lists 0x8128#16 = true ∧ wellFormedWord 0x8128#16 = false ∧
    decode 0x8128#16 = .unrecognized 0x8128#16 := by decide

theorem test_illformed_group9 : UnrecognizedClause.group9.lists 0x912F#16 = true ∧ wellFormedWord 0x912F#16 = false ∧
    decode 0x912F#16 = .unrecognized 0x912F#16 := by decide

theorem test_illformed_groupE : UnrecognizedClause.groupE.lists 0xE19F#16 = true ∧ wellFormedWord 0xE19F#16 = false ∧
    decode 0xE19F#16 = .unrecognized 0xE19F#16 := by decide

theorem test_illformed_groupF : UnrecognizedClause.groupF.lists 0xF1FF#16 = true ∧ wellFormedWord 0xF1FF#16 = false ∧
    decode 0xF1FF#16 = .unrecognized 0xF1FF#16 := by decide

/-- 00E0 and 00EE are no clause's words, and no top nibble without a sub-opcode has one (R82). -/
theorem test_wellformed_words : [0x00E0#16, 0x00EE#16, 0x1FFF#16, 0x812E#16, 0xD12F#16, 0xE1A1#16, 0xF165#16].all
    wellFormedWord = true := by decide

/-! ### Decoding: the words written out bit by bit from the layouts of R71 and the patterns of R78 -/

theorem test_decode_control :
    decode 0b0000000011100000#16 = .instr .cls ∧ decode 0b0000000011101110#16 = .instr .ret ∧
    decode 0b0001101001010011#16 = .instr (.jp 0b101001010011#12) ∧
    decode 0b0010101001010011#16 = .instr (.call 0b101001010011#12) ∧
    decode 0b1011101001010011#16 = .instr (.jpV0 0b101001010011#12) := by decide

theorem test_decode_skips :
    decode 0b0011110100101110#16 = .instr (.seImm 13 0b00101110#8) ∧
    decode 0b0100110100101110#16 = .instr (.sneImm 13 0b00101110#8) ∧
    decode 0b0101110100100000#16 = .instr (.seReg 13 2) ∧ decode 0b1001110100100000#16 = .instr (.sneReg 13 2) ∧
    decode 0b1110110110011110#16 = .instr (.skp 13) ∧ decode 0b1110110110100001#16 = .instr (.sknp 13) := by decide

theorem test_decode_alu :
    decode 0b0110110100101110#16 = .instr (.ldImm 13 0b00101110#8) ∧
    decode 0b0111110100101110#16 = .instr (.addImm 13 0b00101110#8) ∧
    decode 0b1000110100100000#16 = .instr (.ldReg 13 2) ∧ decode 0b1000110100100001#16 = .instr (.or 13 2) ∧
    decode 0b1000110100100010#16 = .instr (.and 13 2) ∧ decode 0b1000110100100011#16 = .instr (.xor 13 2) ∧
    decode 0b1000110100100100#16 = .instr (.addReg 13 2) ∧ decode 0b1000110100100101#16 = .instr (.sub 13 2) ∧
    decode 0b1000110100100110#16 = .instr (.shr 13 2) ∧ decode 0b1000110100100111#16 = .instr (.subn 13 2) ∧
    decode 0b1000110100101110#16 = .instr (.shl 13 2) := by decide

theorem test_decode_index :
    decode 0b1010101001010011#16 = .instr (.ldI 0b101001010011#12) ∧ decode 0b1111110100011110#16 = .instr (.addIX 13) ∧
    decode 0b1111110100101001#16 = .instr (.ldFX 13) ∧ decode 0b1111110100110011#16 = .instr (.ldBX 13) ∧
    decode 0b1111110101010101#16 = .instr (.ldMemX 13) ∧ decode 0b1111110101100101#16 = .instr (.ldXMem 13) := by decide

theorem test_decode_devices :
    decode 0b1100110100101110#16 = .instr (.rnd 13 0b00101110#8) ∧ decode 0b1111110100000111#16 = .instr (.ldXDt 13) ∧
    decode 0b1111110100001010#16 = .instr (.ldXK 13) ∧ decode 0b1111110100010101#16 = .instr (.ldDtX 13) ∧
    decode 0b1111110100011000#16 = .instr (.ldStX 13) ∧ decode 0b1101110100101110#16 = .instr (.drw 13 2 14#4) := by decide

/-- The bytes of a word in memory order, and the table's numbering of its bits (R52, R53). -/
theorem test_decode_bytes :
    decodeBytes [0x12#8, 0x34#8, 0x56#8] = some (.jp 0x234#12, [0x56#8]) ∧ decodeTableWord 16 0x1234 = some (.jp 0x234#12) ∧
    decodeTableWord 16 0x5121 = none ∧ decodeBytes [0x12#8] = none := by decide

/-! ### The step, unrecognized words and fetch (L2-E) -/

theorem test_e2_unrecognized_zero : look (fun t => (t.pc, t.unrec)) (start []) 0x0000 =
    some (0x202#12, [⟨0x200#12, 0x0000#16⟩]) := by decide +kernel

theorem test_e4_unrecognized_skip : look (fun t => (t.pc, t.unrec)) (start []) 0x5121 =
    some (0x202#12, [⟨0x200#12, 0x5121#16⟩]) := by decide +kernel

/-- L2-E9. -/
theorem test_e9_fetch_fault : cpuStep { start [] with pc := 0xFFF#12 } =
    .next { start [] with pc := 0xFFF#12, fault := some ⟨.addressOutOfRange, 0xFFF#12, none, 0x1000⟩, halted := true } := rfl

/-- L2-E10: the last word of memory, and PC wraps. -/
theorem test_e10_pc_wraps : look (fun t => (t.pc, t.unrec)) { start [] with pc := 0xFFE#12 } 0x0000 =
    some (0x000#12, [⟨0xFFE#12, 0x0000#16⟩]) := by decide +kernel

/-- L2-E11: an odd PC. -/
theorem test_e11_odd_pc : look (fun t => (t.pc, t.getV 0)) { start [] with pc := 0x201#12 } 0x6007 =
    some (0x203#12, 0x07#8) := by decide +kernel

/-- The step that follows from reset with an instruction placed runs it (log 8). -/
theorem test_first_instruction_after_reset : look (fun t => (t.pc, t.getV 10, t.phase)) State.reset 0x6AFF =
    some (0x202#12, 0xFF#8, .execute 8) := by decide +kernel

/-! ### Control flow (L2-C) -/

theorem test_c1_jp : look (fun t => t.pc) (start []) 0x1300 = some 0x300#12 := by decide +kernel

theorem test_c23_jp_odd : look (fun t => t.pc) (start []) 0x1201 = some 0x201#12 := by decide +kernel

theorem test_c4_call_wraps : look (fun t => (t.pc, t.sp, t.stack[0])) { start [] with pc := 0xFFE#12 } 0x2300 =
    some (0x300#12, 1, 0x000#12) := by decide +kernel

theorem test_c5_call_overflow : look (fun t => (t.pc, t.sp, t.fault, t.halted)) { start [] with sp := 16 } 0x2300 =
    some (0x200#12, 16, some ⟨.stackOverflow, 0x200#12, some 0x2300#16, 16⟩, true) := by decide +kernel

theorem test_c8_ret : look (fun t => (t.pc, t.sp))
    { start [] with sp := 16, stack := (start []).stack.set 15 0x444#12 } 0x00EE = some (0x444#12, 15) := by decide +kernel

theorem test_c7_ret_underflow : look (fun t => (t.pc, t.fault, t.fault.map (·.code))) (start []) 0x00EE =
    some (0x200#12, some ⟨.stackUnderflow, 0x200#12, some 0x00EE#16, 0⟩, some 4) := by decide +kernel

theorem test_c9_jpV0 : look (fun t => t.pc) (start [(0, 0x04#8)]) 0xB300 = some 0x304#12 := by decide +kernel

theorem test_c11_jpV0_wraps : look (fun t => t.pc) (start [(0, 0xFF#8)]) 0xBF02 = some 0x001#12 := by decide +kernel

theorem test_c12_seImm : look (fun t => t.pc) (start [(3, 0x10#8)]) 0x3310 = some 0x204#12 := by decide +kernel

theorem test_c22_seImm_wraps : look (fun t => t.pc) { start [(3, 0x10#8)] with pc := 0xFFE#12 } 0x3310 =
    some 0x002#12 := by decide +kernel

theorem test_c15_sneImm : look (fun t => t.pc) (start [(3, 0x10#8)]) 0x4311 = some 0x204#12 := by decide +kernel

theorem test_c16_sneImm_equal : look (fun t => t.pc) (start [(3, 0x10#8)]) 0x4310 = some 0x202#12 := by decide +kernel

theorem test_c17_seReg : look (fun t => t.pc) (start [(1, 7#8), (2, 7#8)]) 0x5120 = some 0x204#12 := by decide +kernel

theorem test_c18_seReg_differ : look (fun t => t.pc) (start [(1, 7#8), (2, 8#8)]) 0x5120 = some 0x202#12 := by
  decide +kernel

theorem test_c20_sneReg : look (fun t => t.pc) (start [(1, 7#8), (2, 8#8)]) 0x9120 = some 0x204#12 := by decide +kernel

theorem test_c21_sneReg_same : look (fun t => t.pc) (start [(1, 7#8)]) 0x9110 = some 0x202#12 := by decide +kernel

/-! ### Register and ALU (L2-A) -/

theorem test_a1_ldImm : look (fun t => (t.getV 10, t.pc)) (start []) 0x6AFF = some (0xFF#8, 0x202#12) := by decide +kernel

theorem test_a2_addImm_no_flag : look (fun t => (t.getV 0, t.getV 15)) (start [(0, 0xFF#8), (15, 1#8)]) 0x7001 =
    some (0x00#8, 0x01#8) := by decide +kernel

theorem test_a3_addImm_on_vf : look (fun t => t.getV 15) (start [(15, 0xFF#8)]) 0x7F01 = some 0x00#8 := by decide +kernel

theorem test_a4_ldReg : look (fun t => (t.getV 1, t.getV 15)) (startOn [(1, 3#8), (2, 9#8), (15, 7#8)]) 0x8120 =
    some (9#8, 7#8) := by decide +kernel

theorem test_a5_or_reset : look (fun t => (t.getV 1, t.getV 15)) (startOn [(1, 0x0F#8), (2, 0xF0#8), (15, 5#8)]) 0x8121 =
    some (0xFF#8, 0#8) := by decide +kernel

theorem test_a10_or_into_vf : look (fun t => t.getV 15) (startOn [(15, 0x0F#8), (2, 0xF0#8)]) 0x8F21 = some 0x00#8 := by
  decide +kernel

theorem test_a7_and_reset : look (fun t => (t.getV 1, t.getV 15)) (startOn [(1, 0x3C#8), (2, 0x0F#8), (15, 5#8)]) 0x8122 =
    some (0x0C#8, 0#8) := by decide +kernel

theorem test_a8_and : look (fun t => (t.getV 1, t.getV 15)) (start [(1, 0x3C#8), (2, 0x0F#8), (15, 5#8)]) 0x8122 =
    some (0x0C#8, 5#8) := by decide +kernel

theorem test_a9_xor_self : look (fun t => t.getV 1) (start [(1, 0x55#8)]) 0x8113 = some 0x00#8 := by decide +kernel

/-- R127 under Q_LOGIC_VF_RESET: 0x3C ^ 0x0F = 0x33. -/
theorem test_xor_reset : look (fun t => (t.getV 1, t.getV 15)) (startOn [(1, 0x3C#8), (2, 0x0F#8), (15, 5#8)]) 0x8123 =
    some (0x33#8, 0#8) := by decide +kernel

theorem test_a14_addReg : look (fun t => (t.getV 1, t.getV 15)) (start [(1, 0xC8#8), (2, 0x64#8)]) 0x8124 =
    some (0x2C#8, 1#8) := by decide +kernel

theorem test_a16_addReg_vf_operand : look (fun t => (t.getV 1, t.getV 15)) (start [(15, 0x01#8), (1, 0x10#8)]) 0x81F4 =
    some (0x11#8, 0#8) := by decide +kernel

theorem test_a18_sub_borrow : look (fun t => (t.getV 1, t.getV 15)) (start [(1, 5#8), (2, 7#8)]) 0x8125 =
    some (0xFE#8, 0#8) := by decide +kernel

theorem test_a21_sub_into_vf : look (fun t => t.getV 15) (start [(15, 5#8), (1, 3#8)]) 0x8F15 = some 1#8 := by
  decide +kernel

theorem test_a22_shr_vy : look (fun t => (t.getV 1, t.getV 15, t.getV 2)) (startOn [(1, 5#8), (2, 0x80#8)]) 0x8126 =
    some (0x40#8, 0#8, 0x80#8) := by decide +kernel

theorem test_a23_shr_vx : look (fun t => (t.getV 1, t.getV 15)) (start [(1, 5#8), (2, 0x80#8)]) 0x8126 =
    some (0x02#8, 1#8) := by decide +kernel

theorem test_a26_subn : look (fun t => (t.getV 1, t.getV 15)) (start [(1, 5#8), (2, 7#8)]) 0x8127 =
    some (0x02#8, 1#8) := by decide +kernel

theorem test_a27_subn_borrow : look (fun t => (t.getV 1, t.getV 15)) (start [(1, 1#8), (2, 0#8)]) 0x8127 =
    some (0xFF#8, 0#8) := by decide +kernel

theorem test_a28_shl_vy : look (fun t => (t.getV 1, t.getV 15)) (startOn [(1, 0x81#8), (2, 0x40#8)]) 0x812E =
    some (0x80#8, 0#8) := by decide +kernel

theorem test_a29_shl_vx : look (fun t => (t.getV 1, t.getV 15)) (start [(1, 0x81#8), (2, 0x40#8)]) 0x812E =
    some (0x02#8, 1#8) := by decide +kernel

/-! ### Index and memory (L2-M) -/

theorem test_m1_ldI : look (fun t => t.index) (start []) 0xA123 = some 0x0123#16 := by decide +kernel

theorem test_m6_addIX_wraps : look (fun t => (t.index, t.getV 15)) { startOn [(2, 1#8)] with index := 0xFFFF#16 } 0xF21E =
    some (0x0000#16, 1#8) := by decide +kernel

theorem test_m7_addIX_vf : look (fun t => (t.index, t.getV 15)) { startOn [(15, 0x20#8)] with index := 0x0100#16 } 0xFF1E =
    some (0x0120#16, 0#8) := by decide +kernel

theorem test_m9_ldFX : look (fun t => t.index) (start [(3, 0x1A#8)]) 0xF329 = some 0x0082#16 := by decide +kernel

theorem test_m11_ldBX : look (fun t => (List.range 3).map fun k => Memory.read t.mem (0x300 + k))
    { start [(0, 0xFE#8)] with index := 0x300#16 } 0xF033 = some [2#8, 5#8, 4#8] := by decide +kernel

theorem test_m15_ldBX_fault : look (fun t => (t.fault, Memory.read t.mem 0xFFE, t.pc))
    { start [(0, 0x64#8)] with index := 0xFFE#16 } 0xF033 =
    some (some ⟨.addressOutOfRange, 0x200#12, some 0xF033#16, 0x1000⟩, 0x00#8, 0x200#12) := by decide +kernel

theorem test_m16_ldMemX_inc : look (fun t => ((List.range 4).map fun k => Memory.read t.mem (0x300 + k), t.index))
    { startOn [(0, 1#8), (1, 2#8), (2, 3#8), (3, 9#8)] with index := 0x300#16 } 0xF255 =
    some ([1#8, 2#8, 3#8, 0#8], 0x303#16) := by decide +kernel

/-- L2-X1. -/
theorem test_x1_ldMemX_fault : look (fun t => (t.fault, Memory.read t.mem 0xFFE, Memory.read t.mem 0xFFF, t.halted))
    { start [(0, 9#8), (1, 8#8), (2, 7#8)] with index := 0xFFE#16 } 0xF255 =
    some (some ⟨.addressOutOfRange, 0x200#12, some 0xF255#16, 0x1000⟩, 0x00#8, 0x00#8, true) := by decide +kernel

theorem test_m22_ldXMem : look (fun t => (t.getV 0, t.getV 1, t.getV 2, t.getV 3, t.index))
    { start [(3, 9#8)] with index := 0x300#16, mem := [(0x300, 2#8), (0x301, 5#8), (0x302, 4#8), (0x303, 7#8)] } 0xF265 =
    some (2#8, 5#8, 4#8, 9#8, 0x300#16) := by decide +kernel

theorem test_m24_ldXMem_fault : look (fun t => (t.getV 0, t.fault.map (·.addr)))
    { start [(0, 6#8)] with index := 0x1000#16 } 0xF065 = some (6#8, some 0x1000) := by decide +kernel

/-! ### Random, timers and keypad (L2-R) -/

theorem test_r1_rnd : look (fun t => t.getV 3) { start [] with rng := ⟨[0xA7#8], 0⟩ } 0xC30F = some 0x07#8 := by
  decide +kernel

theorem test_r4_rnd_vf : look (fun t => (t.getV 15, t.rng)) { start [(15, 1#8)] with rng := ⟨[0x3C#8], 0⟩ } 0xCF0F =
    some (0x0C#8, ⟨[], 0⟩) := by decide +kernel

theorem test_r5_ldXDt : look (fun t => t.getV 5) { start [] with dt := 0x2A#8 } 0xF507 = some 0x2A#8 := by decide +kernel

theorem test_r6_ldDtX : look (fun t => t.dt) (start [(0, 0x3C#8)]) 0xF015 = some 60#8 := by decide +kernel

theorem test_r7_ldStX : look (fun t => (t.st, t.gate)) (start [(1, 5#8)]) 0xF118 = some (5#8, true) := by decide +kernel

theorem test_r8_ldStX_zero : look (fun t => (t.st, t.gate)) { start [] with st := 9#8 } 0xF118 = some (0#8, false) := by
  decide +kernel

theorem test_r9_skp : look (fun t => t.pc) { start [(2, 7#8)] with key := keysOf [7] } 0xE29E = some 0x204#12 := by
  decide +kernel

theorem test_r11_skp_no_key : look (fun t => t.pc) { start [(2, 0x17#8)] with key := keysOf (List.range 16) } 0xE29E =
    some 0x202#12 := by decide +kernel

theorem test_r13_sknp : look (fun t => t.pc) { start [(2, 7#8)] with key := keysOf [7] } 0xE2A1 = some 0x202#12 := by
  decide +kernel

theorem test_r14_sknp_no_key : look (fun t => t.pc) { start [(2, 0x17#8)] with key := keysOf (List.range 16) } 0xE2A1 =
    some 0x204#12 := by decide +kernel

theorem test_r16_ldXK_latches : look (fun t => (t.getV 3, t.kw, t.pc)) { start [] with key := keysOf [4, 9] } 0xF30A =
    some (4#8, ⟨.waitRelease, 4⟩, 0x200#12) := by decide +kernel

theorem test_r18_ldXK_release : look (fun t => (t.kw, t.pc))
    { start [(3, 4#8)] with kw := ⟨.waitRelease, 4⟩, key := keysOf [9] } 0xF30A = some (⟨.idle, 0⟩, 0x202#12) := by
  decide +kernel

/-! ### Display (L2-D) -/

theorem test_d1_cls : look (fun t => (onCells 8 8 t.fb, t.dirty.whole)) { start [] with fb := gridOf [(3, 4)] } 0x00E0 =
    some ([], true) := by decide +kernel

theorem test_d2_drw : look (fun t => (onCells 10 6 t.fb, t.getV 15, onCells 10 6 t.dirty.cells))
    { start [(0, 5#8)] with index := 0x050#16 } 0xD015 = some (glyph0At5, 0#8, glyph0At5) := by decide +kernel

/-- L2-D6: both edges wrap; the four corners of the sprite, and cells beside them. -/
theorem test_d6_drw_wraps : look (fun t => ([(60, 30), (3, 30), (60, 1), (3, 1), (59, 30), (4, 30), (60, 29), (3, 2)].map
      fun p => t.fb.cell p.1 p.2, t.getV 15))
    { start [(0, 60#8), (1, 30#8)] with
      index := 0x300#16, qcfg := ⟨false, false, false, true, false, false⟩,
      mem := [(0x300, 0xFF#8), (0x301, 0xFF#8), (0x302, 0xFF#8), (0x303, 0xFF#8)] } 0xD014 =
    some ([true, true, true, true, false, false, false, false], 0#8) := by decide +kernel

/-! ### Change record, timer, driver and creation (L2-D18, L2-T, L2-F, L2-X5, L2-I) -/

theorem test_d18_takeChanges_whole :
    (takeChanges { start [] with dirty := ⟨true, Grid.clear⟩ }).1 = [⟨0, 0, 64, 32⟩] ∧
    (takeChanges { start [] with dirty := ⟨true, Grid.clear⟩ }).2.dirty = ⟨false, Grid.clear⟩ := ⟨rfl, rfl⟩

theorem test_t1_tick : let t := tick { start [] with dt := 2#8, st := 1#8 }
    (t.dt, t.st, t.gate) = (1#8, 0#8, false) := by decide

theorem test_t2_tick_no_underflow : let t := tick (start []); (t.dt, t.st) = (0#8, 0#8) := by decide

/-- L2-T5: no tick while halted. -/
theorem test_t5_no_tick_when_halted : step { start [] with halted := true, dt := 5#8, turns := ⟨[.timer], 0, 0⟩ } =
    .fault .halted := rfl

/-- L2-F5: a shutdown at the poll. -/
theorem test_f5_shutdown :
    (poll { start [] with polls := ⟨[⟨keysOf [], false, true⟩], 0⟩ }).halted = true := by decide +kernel

/-- L2-F3: a pause toggle at the poll leaves no budget. -/
theorem test_f3_pause : let t := poll { start [] with polls := ⟨[⟨keysOf [5], true, false⟩], 0⟩ }
    (t.paused, t.phaseAfterPoll, t.key) = (true, .present, keysOf [5]) := by decide +kernel

/-- One LOCKSTEP frame of IPF 2: poll, two CPU steps, present, tick (R220). -/
theorem test_lockstep_frame : lockstepTurns 2 1 = [.driver, .driver, .driver, .driver, .timer] := rfl

/-- L2-X5. -/
theorem test_x5_rom_too_large : loadRom [] (List.replicate 3585 0x12#8) = .error ⟨.romTooLarge, 3585⟩ := by
  rw [loadRom, List.length_replicate, if_pos (by decide)]

/-- L2-I2, L2-I3, L2-I4: ends of the font and of the zeroes around it. -/
theorem test_i2_reset_memory : [0x04F, 0x050, 0x051, 0x09F, 0x0A0, 0x1FF].map (Memory.read State.reset.mem) =
    [0x00#8, 0xF0#8, 0x90#8, 0x80#8, 0x00#8, 0x00#8] := by decide

theorem test_i1_reset : (State.reset.pc, State.reset.sp, State.reset.index, State.reset.gate, State.reset.halted) =
    (0x200#12, 0, 0x0000#16, false, false) := by decide

theorem test_create : State.create quirksOn 7 [0x12#8, 0x00#8] =
    .ok { State.reset with qcfg := quirksOn, ipf := 7, mem := [(0x200, 0x12#8)] } := rfl

theorem test_reset_memory_canonical : Memory.wf State.reset.mem := by decide

theorem test_write_keeps_canonical : Memory.write [(0x300, 1#8)] 0x300 0x00#8 = [] ∧
    Memory.write [(0x300, 1#8)] 0x050 0xF0#8 = [(0x300, 1#8)] ∧
    Memory.write [(0x300, 1#8)] 0x050 0x12#8 = [(0x050, 0x12#8), (0x300, 1#8)] := by decide

/-! ### Witnesses for the statements of Certificates/Slice0/Obligations.lean, in its order -/

/-- Quirks off, the word w at PC, the driver about to take a CPU step. -/
def ready (w : Nat) : State := (start []).withFetchWord 16 w

/-- The machine at a poll, the host's reply given. -/
def atPoll (r : PollReply) : State :=
  { start [] with phase := .poll, polls := ⟨[r], 0⟩ }

/-- The machine at a present, after a clear screen or with nothing drawn. -/
def atPresent (whole : Bool) : State := { start [] with phase := .present, dirty := ⟨whole, Grid.clear⟩ }

/-- The machine at the Timer's turn. -/
def atTick : State := { start [] with turns := ⟨[.timer], 0, 0⟩, dt := 1#8, st := 2#8 }

/-- The machine in the second phase of a key wait at F30A. -/
def waiting : State := { start [(3, 4#8)] with kw := ⟨.waitRelease, 4⟩ }.withFetchWord 16 0xF30A

/-- Whether an instruction changes what f shows. -/
def changes {α : Type} [DecidableEq α] (f : State → α) (i : Instr) (s : State) : Bool :=
  match exec i s with
  | .next t => decide (f t ≠ f s)
  | _ => false

theorem witness_decode_and_encode : decode 0xFF65#16 = .instr (.ldXMem 15) := by decide

theorem witness_unrecognized : decode 0xFFFF#16 = .unrecognized 0xFFFF#16 := by decide

theorem witness_fetch_ends : (0xFFE#12).toNat + 1 < 4096 ∧ ¬ (0xFFF#12).toNat + 1 < 4096 := by decide

theorem witness_step_runs : (ready 0x6AFF).halted = false ∧ (ready 0x6AFF).nextAgent = .driver ∧
    (ready 0x6AFF).phase = .execute 0 ∧ fetch (ready 0x6AFF).mem (ready 0x6AFF).pc = .ok 0x6AFF#16 ∧
    decode 0x6AFF#16 = .instr (.ldImm 10 0xFF#8) := by decide +kernel

theorem witness_step_unrecognized : (ready 0x5121).halted = false ∧ (ready 0x5121).nextAgent = .driver ∧
    (ready 0x5121).phase = .execute 0 ∧ fetch (ready 0x5121).mem (ready 0x5121).pc = .ok 0x5121#16 ∧
    wellFormedWord 0x5121#16 = false := by decide +kernel

theorem witness_fetch_fault : let s := { start [] with pc := 0xFFF#12 }
    s.halted = false ∧ s.nextAgent = .driver ∧ s.phase = .execute 0 ∧ s.pc = 0xFFF#12 := ⟨rfl, rfl, rfl, rfl⟩

theorem witness_placed : State.reset.pc ≠ 0xFFF#12 ∧ (0x1FF : Nat) ≠ State.reset.pc.toNat ∧
    (0x202 : Nat) ≠ State.reset.pc.toNat + 1 := by decide

theorem witness_halted : ({ start [] with halted := true } : State).halted = true := rfl

theorem witness_halts_by_fault : ∃ t, step { start [] with pc := 0xFFF#12 } = .next t ∧ t.halted = true ∧
    t.fault ≠ ({ start [] with pc := 0xFFF#12 } : State).fault := ⟨_, rfl, rfl, by simp [start, State.reset]⟩

theorem witness_halts_by_shutdown : ∃ t, step (atPoll ⟨keysOf [], false, true⟩) = .next t ∧ t.halted = true ∧
    (atPoll ⟨keysOf [], false, true⟩).nextAgent = .driver ∧ (atPoll ⟨keysOf [], false, true⟩).phase = .poll ∧
    (atPoll ⟨keysOf [], false, true⟩).nextReply.shutdown = true := ⟨_, rfl, rfl, rfl, rfl, rfl⟩

/-- Each instruction that raises, at the first value that makes it raise (R153 to R155, R193, R194). -/
theorem witness_each_fault : (start []).halted = false ∧
    ([(Instr.ret, start []), (.call 0x300, { start [] with sp := 16 }), (.ldBX 0, { start [] with index := 0xFFE#16 }),
      (.ldMemX 1, { start [] with index := 0xFFF#16 }), (.ldXMem 1, { start [] with index := 0xFFF#16 }),
      (.drw 0 1 2, { start [] with index := 0xFFF#16 }), (.drw 0 1 1, { startOn [] with index := 0xFFF#16 })].all fun p =>
      look (fun t => t.halted) p.2 (encode p.1).toNat == some true) = true ∧
    ∃ t, exec .ret (start []) = .next t ∧ t.halted = true := by
  refine ⟨rfl, by decide +kernel, _, rfl, rfl⟩

theorem witness_address_fault_ends : 4096 ≤ (0xFFE#16).toNat + 2 ∧ ¬ 4096 ≤ (0xFFD#16).toNat + 2 ∧
    4096 ≤ (0xFFF#16).toNat + (1 : Reg).val ∧ ¬ 4096 ≤ (0xFFF#16).toNat + (0 : Reg).val ∧
    (2#4).toNat + 0 ≠ 0 ∧ 4096 < (0xFFF#16).toNat + ((2#4).toNat + 0) ∧ (0#4).toNat + 1 ≠ 0 ∧
    4096 < (0x1000#16).toNat + ((0#4).toNat + 1) := by decide

theorem witness_return : 0 < ({ start [] with sp := 1 } : State).sp.val ∧
    0 < ({ start [] with sp := 16 } : State).sp.val := by decide

theorem witness_call : (start []).sp.val < 16 ∧ ({ start [] with sp := 15 } : State).sp.val < 16 := by decide

theorem witness_stack_faults : (start []).sp.val = 0 ∧ ({ start [] with sp := 16 } : State).sp.val = 16 := by decide

theorem witness_call_then_return : (start []).sp.val < 16 ∧
    ∃ t, exec (.call 0x250) (start []) = .next t ∧ ∃ u : State, u.stack = t.stack ∧ u.sp = t.sp :=
  ⟨by decide, _, rfl, _, rfl, rfl⟩

theorem witness_immediate_words : (0x6AFF#16).toNat / 4096 = 0x6 ∧ (0x7F01#16).toNat / 4096 = 0x7 ∧
    (0xA123#16).toNat / 4096 = 0xA ∧ (0xF329#16).toNat / 4096 = 0xF ∧ (0xF329#16).toNat % 256 = 0x29 := by decide

/-- Both settings of the quirk, and destinations beside VF. -/
theorem witness_logic : (startOn []).qcfg.logicVfReset = true ∧ (start []).qcfg.logicVfReset = false ∧
    (14 : Reg) ≠ 15 := by decide

/-- Sums at the carry's ends, and a difference at the borrow's. -/
theorem witness_carry_ends : ¬ (0xFE#8).toNat + (0x01#8).toNat > 255 ∧ (0xFF#8).toNat + (0x01#8).toNat > 255 ∧
    (7#8).toNat ≥ (7#8).toNat ∧ ¬ (6#8).toNat ≥ (7#8).toNat := by decide

theorem witness_shift_source :
    0x40 = (if (startOn [(1, 0x81#8), (2, 0x40#8)]).qcfg.shiftVy then (startOn [(1, 0x81#8), (2, 0x40#8)]).getV 2
      else (startOn [(1, 0x81#8), (2, 0x40#8)]).getV 1).toNat ∧
    0x81 = (if (start [(1, 0x81#8), (2, 0x40#8)]).qcfg.shiftVy then (start [(1, 0x81#8), (2, 0x40#8)]).getV 2
      else (start [(1, 0x81#8), (2, 0x40#8)]).getV 1).toNat := by decide

theorem witness_flag_wins : let s := startOn [(15, 0xFF#8), (1, 0x01#8)]
    0xFF = (s.getV 15).toNat ∧ 0x01 = (s.getV 1).toNat ∧ 0x01 = (if s.qcfg.shiftVy then 0x01 else 0xFF) ∧
    s.qcfg.logicVfReset = true := by decide

/-- The index sum at the ends of the overflow test. -/
theorem witness_index_sum : let s := { startOn [(2, 1#8)] with index := 0xFFE#16 }
    let t := { startOn [(2, 1#8)] with index := 0xFFF#16 }
    4095 = s.index.toNat + (s.getV 2).toNat ∧ 4096 = t.index.toNat + (t.getV 2).toNat := by decide

theorem witness_decimal : ({ start [] with index := 0xFFD#16 } : State).index.toNat + 2 < 4096 := by decide

theorem witness_block : ({ start [] with index := 0xFF0#16 } : State).index.toNat + (15 : Reg).val < 4096 ∧
    (start []).index.toNat + (0 : Reg).val < 4096 ∧ ∃ k : Reg, k ≤ 0 ∧ ∃ j : Reg, (0 : Reg) < j := by
  exact ⟨by decide, by decide, 0, by decide, 1, by decide⟩

theorem witness_stored_word : let s := { start [] with index := 0xFFE#16 }
    s.index.toNat + (1 : Reg).val < 4096 ∧ 1 ≤ (1 : Reg).val ∧ (0xFFE#12).toNat = s.index.toNat := by decide

/-- A pressed key, a released key, and a value that names no key, at the range's ends. -/
theorem witness_skip_on_keys :
    (let s := { start [(2, 0xF#8)] with key := keysOf [15] }
     (∀ k : Key, (s.getV 2).toNat = k.val → s.key[k] = true) ∧ (16 ≤ (s.getV 2).toNat → true = false)) ∧
    (let s := start [(2, 0xF#8)]
     (∀ k : Key, (s.getV 2).toNat = k.val → s.key[k] = false) ∧ (16 ≤ (s.getV 2).toNat → false = false)) ∧
    let s := { start [(2, 0x10#8)] with key := keysOf (List.range 16) }
    (∀ k : Key, (s.getV 2).toNat = k.val → s.key[k] = false) ∧ (16 ≤ (s.getV 2).toNat → false = false) := by
  decide +kernel

theorem witness_key_scan : (start []).kw.phase = .idle ∧ (∀ k : Key, (start []).key[k] = false) ∧
    let s := { start [] with key := keysOf [4, 9] }
    s.kw.phase = .idle ∧ s.key[(4 : Key)] = true ∧ ∀ j : Key, j < 4 → s.key[j] = false := by decide +kernel

theorem witness_key_release : waiting.kw.phase = .waitRelease ∧ waiting.key[waiting.kw.key] = false ∧
    ({ waiting with key := keysOf [4] } : State).key[waiting.kw.key] = true := by decide +kernel

/-- A draw of no row, a draw of the last row of memory, and a cell that is hit and one that is not. -/
theorem witness_draw_rows : 0 = (0#4).toNat + (if (start []).qcfg.drawExtraRow then 1 else 0) ∧
    1 = (0#4).toNat + (if (startOn []).qcfg.drawExtraRow then 1 else 0) ∧ (0xFFF#16).toNat + 1 ≤ 4096 := by decide

theorem witness_draw_hits : let s := { start [] with index := 0x050#16 }
    SpriteHits s 5#8 0#8 5#4 8 4 ∧ ¬ SpriteHits s 5#8 0#8 5#4 9 4 ∧
    ({ s with fb := gridOf [(8, 4)] } : State).fb.cell 8 4 = true := by
  refine ⟨⟨4, 3, by decide, by decide, by decide, by decide⟩, ?_, by decide⟩
  rintro ⟨r, c, -, hc, hb, hx⟩
  have hx : 5 + c = 9 ∧ 0 + r = 4 := hx
  obtain ⟨rfl, rfl⟩ : c = 4 ∧ r = 4 := by omega
  exact absurd hb (by decide)

/-- A draw with a collision and the same draw again, nothing halted. -/
theorem witness_draw_twice : let s := { start [] with index := 0x050#16, fb := gridOf [(0, 0)] }
    (0 : Reg) ≠ 15 ∧ (1 : Reg) ≠ 15 ∧ s.halted = false ∧
    ∃ t r, exec (.drw 0 1 1) s = .next t ∧ t.halted = false ∧ t.getV 15 = 1#8 ∧
      exec (.drw 0 1 1) { t with pc := 0x200#12 } = .next r :=
  ⟨by decide, by decide, rfl, _, _, rfl, rfl, by decide +kernel, rfl⟩

theorem witness_tick : atTick.nextAgent = .timer ∧ atTick.halted = false ∧
    ({ atTick with halted := true } : State).nextAgent = .timer ∧ ({ atTick with halted := true } : State).halted = true :=
  ⟨rfl, rfl, rfl, rfl⟩

theorem witness_tick_commutes : (∀ x : Reg, Instr.jp 0x300 ≠ .ldXDt x ∧ Instr.jp 0x300 ≠ .ldDtX x ∧ Instr.jp 0x300 ≠ .ldStX x) ∧
    ∃ t, exec (.jp 0x300) (start []) = .next t :=
  ⟨fun _ => ⟨by simp, by simp, by simp⟩, _, rfl⟩

/-- Runs within the bound of the fairness statement that go on, at each agent's turn. -/
theorem witness_ticks : (∃ t, Host.Core.run Sys2Proof.core 0 atTick = .next t ∧ t.nextAgent = .timer) ∧
    ∃ t, Host.Core.run Sys2Proof.core 0 (start []) = .next t ∧ t.nextAgent = .driver := ⟨⟨_, rfl, rfl⟩, _, rfl, rfl⟩

/-- A poll without a toggle and one with it, the least budget that runs a step, and a shutdown. -/
theorem witness_poll : let s := { atPoll ⟨keysOf [5], false, false⟩ with ipf := 1 }
    s.halted = false ∧ s.nextAgent = .driver ∧ s.phase = .poll ∧ (poll s).paused = false ∧ 1 ≤ s.ipf ∧
    (poll (atPoll ⟨keysOf [5], true, false⟩)).paused = true ∧
    (atPoll ⟨keysOf [5], false, true⟩).nextReply.shutdown = true := by decide +kernel

theorem witness_present : (atPresent true).halted = false ∧ (atPresent true).nextAgent = .driver ∧
    (atPresent true).phase = .present ∧ (atPresent true).dirty.hasChanges = true := ⟨rfl, rfl, rfl, rfl⟩

theorem witness_present_nothing : (atPresent false).halted = false ∧ (atPresent false).nextAgent = .driver ∧
    (atPresent false).phase = .present ∧ (atPresent false).dirty.hasChanges = false := by
  refine ⟨rfl, rfl, rfl, ?_⟩
  rw [← Bool.not_eq_true, Dirty.hasChanges_iff]
  simp [atPresent]

/-- Cells of a present that are to be covered, with and without DIRTY.whole. -/
theorem witness_present_cells : (atPresent true).dirty.whole = true ∧ (gridOf [(63, 31)]).cell 63 31 = true := by
  decide +kernel

/-- A frame of one CPU step, 00E0, under a schedule that begins with the driver's three turns. -/
theorem witness_frame : let s := { (ready 0x00E0) with
      phase := .poll, ipf := 1, polls := ⟨[⟨keysOf [], false, false⟩], 0⟩,
      turns := ⟨List.replicate 3 .driver ++ [.timer], 0, 0⟩ }
    s.halted = false ∧ s.phase = .poll ∧ 3 = (if (poll s).paused then 0 else s.ipf) + 2 ∧
    s.turns.fixed = List.replicate 3 .driver ++ [.timer] ∧ ∃ t, frame s = .next t ∧ t.halted = false :=
  ⟨rfl, rfl, rfl, rfl, _, rfl, rfl⟩

/-- ROM lengths at the limit and one over it, and addresses beside a ROM. -/
theorem witness_rom_lengths : (List.replicate 3584 0x12#8).length ≤ 3584 ∧ 3584 < (List.replicate 3585 0x12#8).length ∧
    (0 : Nat) < [0x12#8].length ∧ (0x1FF : Nat) < 0x200 ∧ 0x200 + [0x12#8].length ≤ (0x201 : Nat) := by
  simp only [List.length_replicate]
  decide

/-- Each field changed by an instruction that may write it. -/
theorem witness_each_write :
    (changes (·.fb) .cls { start [] with fb := gridOf [(3, 4)] } && changes (·.fb) (.drw 0 1 1) { start [] with index := 0x050#16 } &&
     changes (·.dirty) .cls (start []) && changes (·.dirty) (.drw 0 1 1) { start [] with index := 0x050#16 } &&
     changes (·.stack) (.call 0x300) (start []) && changes (·.sp) (.call 0x300) (start []) &&
     changes (·.sp) .ret { start [] with sp := 1 } && changes (·.mem) (.ldBX 0) (start [(0, 1#8)]) &&
     changes (·.mem) (.ldMemX 0) (start [(0, 1#8)]) && changes (·.index) (.ldI 0x123) (start []) &&
     changes (·.index) (.addIX 0) (start [(0, 1#8)]) && changes (·.index) (.ldFX 0) (start []) &&
     changes (·.index) (.ldMemX 0) (startOn []) && changes (·.index) (.ldXMem 0) (startOn []) &&
     changes (·.dt) (.ldDtX 0) (start [(0, 1#8)]) && changes (·.st) (.ldStX 0) (start [(0, 1#8)]) &&
     changes (·.kw) (.ldXK 0) { start [] with key := keysOf [7] } && changes (·.rng) (.rnd 0 1#8) (start [])) = true := by
  decide +kernel

/-- Each instruction that may write a general register changes its X, the quirks' VF, or the last register it loads; a fault changes
HALTED and FAULT; a jump sets PC. -/
theorem witness_each_register_write :
    let regs : List (Reg × Byte) := [(1, 0x0F#8), (2, 0xF0#8), (15, 7#8)]
    ([Instr.ldImm 1 1#8, .addImm 1 1#8, .ldReg 1 2, .or 1 2, .and 1 2, .xor 1 2, .addReg 1 2, .sub 1 2, .shr 1 2, .subn 1 2,
        .shl 1 2, .ldXDt 1, .ldXMem 1].all (fun i => changes (·.getV 1) i (start regs)) &&
     changes (·.getV 1) (.rnd 1 0xFF#8) { start regs with rng := ⟨[0x55#8], 0⟩ } &&
     changes (·.getV 1) (.ldXK 1) { start regs with key := keysOf [7] } &&
     [Instr.or 1 2, .addReg 1 2, .addIX 1, .drw 1 2 0].all (fun i => changes (·.getV 15) i (startOn regs)) &&
     changes (·.halted) .ret (start []) && changes (·.fault) .ret (start []) && changes (·.pc) (.jp 0x300) (start [])) = true := by
  decide +kernel

theorem witness_agents : (∃ t, step atTick = .next t) ∧ atTick.nextAgent = .timer ∧
    (∃ t, step (atPoll ⟨keysOf [], false, false⟩) = .next t) ∧ (atPoll ⟨keysOf [], false, false⟩).phase = .poll ∧
    (∃ t, step (atPresent true) = .next t) ∧ (atPresent true).phase = .present :=
  ⟨⟨_, rfl⟩, rfl, ⟨_, rfl⟩, rfl, ⟨_, rfl⟩, rfl⟩

theorem witness_display_invisible : Instr.jp 0x300 ≠ .cls ∧ (∀ x y n, Instr.jp 0x300 ≠ .drw x y n) ∧
    ∃ t, exec (.jp 0x300) (start []) = .next t := ⟨by simp, by simp, _, rfl⟩

/-- An instruction that halts and one that does not, an unrecognized word, a fetch fault. -/
theorem witness_pc_changes : (∃ t, exec .ret (start []) = .next t ∧ t.halted = true) ∧
    (∃ t, exec (.jp 0x300) (start []) = .next t ∧ t.halted = false) ∧
    (∃ t, cpuStep (ready 0x5121) = .next t) ∧ fetch (ready 0x5121).mem (ready 0x5121).pc = .ok 0x5121#16 ∧
    decode 0x5121#16 = .unrecognized 0x5121#16 ∧ (∃ t, cpuStep { start [] with pc := 0xFFF#12 } = .next t) ∧
    fetch (start []).mem 0xFFF#12 = .error ⟨.addressOutOfRange, 0x1000⟩ :=
  ⟨⟨_, rfl, rfl⟩, ⟨_, rfl, rfl⟩, cpuStep_next _, by decide +kernel, by decide, cpuStep_next _, by decide +kernel⟩

/-- A self-jump, at the reset entry point and at the last word of memory. -/
theorem witness_ended : (ready 0x1200).ended = true ∧
    ({ start [] with pc := 0xFFE#12 }.withFetchWord 16 0x1FFE).ended = true := by decide +kernel

theorem witness_created : ∃ s, State.create quirksOn 7 [0x12#8, 0x00#8] = .ok s := ⟨_, rfl⟩

/-- The invariant in the middle of a key wait, in a state that steps. -/
theorem witness_inv : Inv waiting ∧ ∃ t, step waiting = .next t := by
  refine ⟨⟨?_, ?_, fun _ => ⟨3, ?_, ?_⟩, ?_, ?_, ?_, ?_, ?_⟩, ?_⟩
  · decide +kernel
  · intro h; cases h
  · decide +kernel
  · decide +kernel
  · intro h; exact absurd rfl h
  · intro f h; cases h
  · intro n h; cases h; exact ⟨rfl, by decide⟩
  · intro e h; cases h
  · intro r h; cases h
  · rw [step_execute (n := 0) rfl rfl rfl]; exact cpuStep_next _

end Sys2Proof.Tests
end

section
/-! The decoder against the encoder and against the list of R82. -/

namespace Sys2Proof

variable {w : Word}

/-! ### A word from its fields, where the decoder has read some of them -/

theorem wordNNN_eq_of_fieldOp {op : Nibble} (hop : fieldOp w = op) : wordNNN op (fieldNNN w) = w :=
  hop ▸ wordNNN_fields w

theorem wordXNN_eq_of_fieldOp {op : Nibble} (hop : fieldOp w = op) : wordXNN op (fieldX w) (fieldNN w) = w :=
  hop ▸ wordXNN_fields w

theorem wordXNN_eq_of_fields {op : Nibble} {nn : Byte} (hop : fieldOp w = op) (hnn : fieldNN w = nn) :
    wordXNN op (fieldX w) nn = w :=
  hnn ▸ wordXNN_eq_of_fieldOp hop

theorem wordXYN_eq_of_fieldOp {op : Nibble} (hop : fieldOp w = op) :
    wordXYN op (fieldX w) (fieldY w) (fieldN w) = w :=
  hop ▸ wordXYN_fields w

theorem wordXYN_eq_of_fields {op n : Nibble} (hop : fieldOp w = op) (hn : fieldN w = n) :
    wordXYN op (fieldX w) (fieldY w) n = w :=
  hn ▸ wordXYN_eq_of_fieldOp hop

/-! ### Decoding an encoded instruction -/

theorem decode_encode (i : Instr) : decode (encode i) = .instr i := by
  cases i
  case cls => decide
  case ret => decide
  all_goals simp [encode, decode, decodeGroup5, decodeGroup8, decodeGroup9, decodeGroupE, decodeGroupF]

/-! ### Encoding a decoded instruction, group by group -/

theorem encode_of_decodeGroup0 {i : Instr} (h : decodeGroup0 w = .instr i) : encode i = w := by
  unfold decodeGroup0 at h
  split_ifs at h with h1 h2 <;> cases h
  · exact h1.symm
  · exact h2.symm

theorem encode_of_decodeGroup5 {i : Instr} (hop : fieldOp w = 0x5#4) (h : decodeGroup5 w = .instr i) :
    encode i = w := by
  unfold decodeGroup5 at h
  split_ifs at h with hn
  cases h
  exact wordXYN_eq_of_fields hop hn

theorem encode_of_decodeGroup8 {i : Instr} (hop : fieldOp w = 0x8#4) (h : decodeGroup8 w = .instr i) :
    encode i = w := by
  unfold decodeGroup8 at h
  dsimp only at h
  split_ifs at h with hn hn hn hn hn hn hn hn hn <;> cases h <;> exact wordXYN_eq_of_fields hop hn

theorem encode_of_decodeGroup9 {i : Instr} (hop : fieldOp w = 0x9#4) (h : decodeGroup9 w = .instr i) :
    encode i = w := by
  unfold decodeGroup9 at h
  split_ifs at h with hn
  cases h
  exact wordXYN_eq_of_fields hop hn

theorem encode_of_decodeGroupE {i : Instr} (hop : fieldOp w = 0xE#4) (h : decodeGroupE w = .instr i) :
    encode i = w := by
  unfold decodeGroupE at h
  split_ifs at h with hk hk <;> cases h <;> exact wordXNN_eq_of_fields hop hk

theorem encode_of_decodeGroupF {i : Instr} (hop : fieldOp w = 0xF#4) (h : decodeGroupF w = .instr i) :
    encode i = w := by
  unfold decodeGroupF at h
  dsimp only at h
  split_ifs at h with hk hk hk hk hk hk hk hk hk <;> cases h <;> exact wordXNN_eq_of_fields hop hk

theorem fieldOp_cases (w : Word) :
    fieldOp w = 0x0#4 ∨ fieldOp w = 0x1#4 ∨ fieldOp w = 0x2#4 ∨ fieldOp w = 0x3#4 ∨ fieldOp w = 0x4#4 ∨
    fieldOp w = 0x5#4 ∨ fieldOp w = 0x6#4 ∨ fieldOp w = 0x7#4 ∨ fieldOp w = 0x8#4 ∨ fieldOp w = 0x9#4 ∨
    fieldOp w = 0xA#4 ∨ fieldOp w = 0xB#4 ∨ fieldOp w = 0xC#4 ∨ fieldOp w = 0xD#4 ∨ fieldOp w = 0xE#4 ∨
    fieldOp w = 0xF#4 := by
  generalize fieldOp w = op
  revert op
  decide

/-- The decoder by its top nibble (R75). -/
theorem decode_cases (w : Word) :
    (fieldOp w = 0x0#4 ∧ decode w = decodeGroup0 w) ∨
    (fieldOp w = 0x1#4 ∧ decode w = .instr (.jp (fieldNNN w))) ∨
    (fieldOp w = 0x2#4 ∧ decode w = .instr (.call (fieldNNN w))) ∨
    (fieldOp w = 0x3#4 ∧ decode w = .instr (.seImm (fieldX w) (fieldNN w))) ∨
    (fieldOp w = 0x4#4 ∧ decode w = .instr (.sneImm (fieldX w) (fieldNN w))) ∨
    (fieldOp w = 0x5#4 ∧ decode w = decodeGroup5 w) ∨
    (fieldOp w = 0x6#4 ∧ decode w = .instr (.ldImm (fieldX w) (fieldNN w))) ∨
    (fieldOp w = 0x7#4 ∧ decode w = .instr (.addImm (fieldX w) (fieldNN w))) ∨
    (fieldOp w = 0x8#4 ∧ decode w = decodeGroup8 w) ∨
    (fieldOp w = 0x9#4 ∧ decode w = decodeGroup9 w) ∨
    (fieldOp w = 0xA#4 ∧ decode w = .instr (.ldI (fieldNNN w))) ∨
    (fieldOp w = 0xB#4 ∧ decode w = .instr (.jpV0 (fieldNNN w))) ∨
    (fieldOp w = 0xC#4 ∧ decode w = .instr (.rnd (fieldX w) (fieldNN w))) ∨
    (fieldOp w = 0xD#4 ∧ decode w = .instr (.drw (fieldX w) (fieldY w) (fieldN w))) ∨
    (fieldOp w = 0xE#4 ∧ decode w = decodeGroupE w) ∨
    (fieldOp w = 0xF#4 ∧ decode w = decodeGroupF w) := by
  rcases fieldOp_cases w with e | e | e | e | e | e | e | e | e | e | e | e | e | e | e | e <;> simp [decode, e]

theorem encode_of_decode {i : Instr} (h : decode w = .instr i) : encode i = w := by
  rcases decode_cases w with ⟨hop, e⟩ | ⟨hop, e⟩ | ⟨hop, e⟩ | ⟨hop, e⟩ |
      ⟨hop, e⟩ | ⟨hop, e⟩ | ⟨hop, e⟩ | ⟨hop, e⟩ |
      ⟨hop, e⟩ | ⟨hop, e⟩ | ⟨hop, e⟩ | ⟨hop, e⟩ |
      ⟨hop, e⟩ | ⟨hop, e⟩ | ⟨hop, e⟩ | ⟨hop, e⟩ <;>
    rw [e] at h
  · exact encode_of_decodeGroup0 h
  · cases h; exact wordNNN_eq_of_fieldOp hop
  · cases h; exact wordNNN_eq_of_fieldOp hop
  · cases h; exact wordXNN_eq_of_fieldOp hop
  · cases h; exact wordXNN_eq_of_fieldOp hop
  · exact encode_of_decodeGroup5 hop h
  · cases h; exact wordXNN_eq_of_fieldOp hop
  · cases h; exact wordXNN_eq_of_fieldOp hop
  · exact encode_of_decodeGroup8 hop h
  · exact encode_of_decodeGroup9 hop h
  · cases h; exact wordNNN_eq_of_fieldOp hop
  · cases h; exact wordNNN_eq_of_fieldOp hop
  · cases h; exact wordXNN_eq_of_fieldOp hop
  · cases h; exact wordXYN_eq_of_fieldOp hop
  · exact encode_of_decodeGroupE hop h
  · exact encode_of_decodeGroupF hop h

/-! ### An unrecognized word is one that its group's clause of R82 lists -/

theorem fieldOp_eq_iff (w : Word) (op : Nibble) : fieldOp w = op ↔ w.toNat / 0x1000 = op.toNat := by
  have := w.isLt
  rw [← BitVec.toNat_inj, fieldOp_toNat]
  omega

theorem fieldN_eq_iff (w : Word) (n : Nibble) : fieldN w = n ↔ w.toNat % 0x10 = n.toNat := by
  rw [← BitVec.toNat_inj, fieldN_toNat]

theorem fieldNN_eq_iff (w : Word) (nn : Byte) : fieldNN w = nn ↔ w.toNat % 0x100 = nn.toNat := by
  rw [← BitVec.toNat_inj, fieldNN_toNat]

theorem wellFormedWord_eq_false_of_lists {c : UnrecognizedClause} (h : c.lists w = true) :
    wellFormedWord w = false := by
  cases c <;> simp [wellFormedWord, h]

theorem decodeGroup0_unrecognized {u : Word} (hop : fieldOp w = 0x0#4) (h : decodeGroup0 w = .unrecognized u) :
    u = w ∧ UnrecognizedClause.sysCall.lists w = true := by
  unfold decodeGroup0 at h
  split_ifs at h with h1 h2
  cases h
  rw [fieldOp_eq_iff] at hop
  simp only [← BitVec.toNat_inj, BitVec.toNat_ofNat] at h1 h2 hop
  have hw : w.toNat < 0x1000 ∧ w.toNat % 0x1000 ≠ 0x0E0 ∧ w.toNat % 0x1000 ≠ 0x0EE := by omega
  simpa [UnrecognizedClause.lists] using hw

theorem decodeGroup5_unrecognized {u : Word} (hop : fieldOp w = 0x5#4) (h : decodeGroup5 w = .unrecognized u) :
    u = w ∧ UnrecognizedClause.group5.lists w = true := by
  unfold decodeGroup5 at h
  split_ifs at h with hn
  cases h
  simp_all [UnrecognizedClause.lists, fieldOp_eq_iff, fieldN_eq_iff]

theorem decodeGroup9_unrecognized {u : Word} (hop : fieldOp w = 0x9#4) (h : decodeGroup9 w = .unrecognized u) :
    u = w ∧ UnrecognizedClause.group9.lists w = true := by
  unfold decodeGroup9 at h
  split_ifs at h with hn
  cases h
  simp_all [UnrecognizedClause.lists, fieldOp_eq_iff, fieldN_eq_iff]

theorem decodeGroup8_unrecognized {u : Word} (hop : fieldOp w = 0x8#4) (h : decodeGroup8 w = .unrecognized u) :
    u = w ∧ UnrecognizedClause.group8.lists w = true := by
  unfold decodeGroup8 at h
  dsimp only at h
  split_ifs at h
  cases h
  simp only [fieldN_eq_iff, BitVec.toNat_ofNat] at *
  have hn : w.toNat % 16 = 8 ∨ w.toNat % 16 = 9 ∨ w.toNat % 16 = 10 ∨ w.toNat % 16 = 11 ∨ w.toNat % 16 = 12 ∨
      w.toNat % 16 = 13 ∨ w.toNat % 16 = 15 := by omega
  simpa [UnrecognizedClause.lists, (fieldOp_eq_iff w _).mp hop] using hn

theorem decodeGroupE_unrecognized {u : Word} (hop : fieldOp w = 0xE#4) (h : decodeGroupE w = .unrecognized u) :
    u = w ∧ UnrecognizedClause.groupE.lists w = true := by
  unfold decodeGroupE at h
  split_ifs at h
  cases h
  simp_all [UnrecognizedClause.lists, fieldOp_eq_iff, fieldNN_eq_iff]

theorem decodeGroupF_unrecognized {u : Word} (hop : fieldOp w = 0xF#4) (h : decodeGroupF w = .unrecognized u) :
    u = w ∧ UnrecognizedClause.groupF.lists w = true := by
  unfold decodeGroupF at h
  dsimp only at h
  split_ifs at h
  cases h
  simp_all [UnrecognizedClause.lists, fieldOp_eq_iff, fieldNN_eq_iff]

/-- R76, R82: the decoder refuses the word it was given, and only a word that some clause of R82 lists. -/
theorem unrecognized_listed {u : Word} (h : decode w = .unrecognized u) :
    u = w ∧ ∃ c : UnrecognizedClause, c.lists w = true := by
  rcases decode_cases w with ⟨hop, e⟩ | ⟨hop, e⟩ | ⟨hop, e⟩ | ⟨hop, e⟩ |
      ⟨hop, e⟩ | ⟨hop, e⟩ | ⟨hop, e⟩ | ⟨hop, e⟩ |
      ⟨hop, e⟩ | ⟨hop, e⟩ | ⟨hop, e⟩ | ⟨hop, e⟩ |
      ⟨hop, e⟩ | ⟨hop, e⟩ | ⟨hop, e⟩ | ⟨hop, e⟩ <;>
    rw [e] at h
  · exact (decodeGroup0_unrecognized hop h).imp_right fun hc => ⟨_, hc⟩
  · cases h
  · cases h
  · cases h
  · cases h
  · exact (decodeGroup5_unrecognized hop h).imp_right fun hc => ⟨_, hc⟩
  · cases h
  · cases h
  · exact (decodeGroup8_unrecognized hop h).imp_right fun hc => ⟨_, hc⟩
  · exact (decodeGroup9_unrecognized hop h).imp_right fun hc => ⟨_, hc⟩
  · cases h
  · cases h
  · cases h
  · cases h
  · exact (decodeGroupE_unrecognized hop h).imp_right fun hc => ⟨_, hc⟩
  · exact (decodeGroupF_unrecognized hop h).imp_right fun hc => ⟨_, hc⟩

theorem wellFormedWord_of_unrecognized {u : Word} (h : decode w = .unrecognized u) : wellFormedWord u = false := by
  obtain ⟨rfl, c, hc⟩ := unrecognized_listed h
  exact wellFormedWord_eq_false_of_lists hc

end Sys2Proof
end

section
/-! What exec can do: a fatal fault of an instruction that may raise one, or its completion. -/

namespace Sys2Proof.Machine

open Sys2Proof

variable {s t : State} {i : Instr}

/-- The kinds of a fatal fault that a step can raise (60_exceptions.md R210). -/
def ErrorKind.Fatal (k : ErrorKind) : Prop := k = .addressOutOfRange ∨ k = .stackOverflow ∨ k = .stackUnderflow

/-! ### Runs and fetches raise the address fault -/

theorem readRun_error_kind {m : Memory} {a n : Nat} {r : Raise} (h : readRun m a n = .error r) :
    r.kind = .addressOutOfRange := by
  rcases readRun_cases m a n with ⟨-, e⟩ | ⟨-, e⟩
  · cases e.symm.trans h
  · cases e.symm.trans h; rfl

theorem readRun_length {m : Memory} {a n : Nat} {l : List Byte} (h : readRun m a n = .ok l) : l.length = n := by
  rcases readRun_cases m a n with ⟨-, e⟩ | ⟨-, e⟩
  · cases e.symm.trans h; simp
  · cases e.symm.trans h

theorem writeRun_cases (m : Memory) (a : Nat) (bytes : List Byte) :
    (∃ m', writeRun m a bytes = .ok m' ∧ (Memory.wf m → Memory.wf m')) ∨
    writeRun m a bytes = .error ⟨.addressOutOfRange, max a memSize⟩ := by
  by_cases h : bytes.length = 0 ∨ a + bytes.length ≤ memSize
  · obtain ⟨m', e, -, hwf⟩ := writeRun_ok m a bytes h
    exact .inl ⟨m', e, hwf⟩
  · exact .inr (writeRun_error m a bytes (by omega) (by omega))

theorem writeRun_error_kind {m : Memory} {a : Nat} {bytes : List Byte} {r : Raise}
    (h : writeRun m a bytes = .error r) : r.kind = .addressOutOfRange := by
  rcases writeRun_cases m a bytes with ⟨m', e, -⟩ | e
  · cases e.symm.trans h
  · cases e.symm.trans h; rfl

theorem writeRun_wf {m m' : Memory} {a : Nat} {bytes : List Byte} (h : writeRun m a bytes = .ok m')
    (hwf : Memory.wf m) : Memory.wf m' := by
  rcases writeRun_cases m a bytes with ⟨m'', e, hw⟩ | e
  · cases e.symm.trans h; exact hw hwf
  · cases e.symm.trans h

theorem fetch_error_kind {m : Memory} {pc : Addr} {r : Raise} (h : fetch m pc = .error r) :
    r.kind = .addressOutOfRange := by
  rcases fetch_cases m pc with ⟨-, e⟩ | ⟨-, e⟩
  · cases e.symm.trans h
  · cases e.symm.trans h; rfl

/-! ### Return and call, by the stack pointer -/

theorem exec_ret_of_pos (h : 0 < s.sp.val) :
    exec .ret s = .next { s with pc := s.stack[s.sp.val - 1]'(by omega), sp := ⟨s.sp.val - 1, by omega⟩ } := by
  simp only [exec, execRet, pop_ok s.advance h]
  rfl

theorem exec_ret_of_empty (h : s.sp.val = 0) :
    exec .ret s = .next (s.fatalFault (some (encode .ret)) ⟨.stackUnderflow, 0⟩) := by
  simp only [exec, execRet, pop_empty s.advance h]
  rfl

theorem exec_call_of_room (nnn : Addr) (h : s.sp.val < 16) :
    exec (.call nnn) s = .next { s with
      pc := nnn, stack := s.stack.set s.sp.val (s.pc + 2#12), sp := ⟨s.sp.val + 1, by omega⟩ } := by
  simp only [exec, execCall, push_ok s.advance _ h]
  rfl

theorem exec_call_of_full (nnn : Addr) (h : s.sp.val = 16) :
    exec (.call nnn) s = .next (s.fatalFault (some (encode (.call nnn))) ⟨.stackOverflow, 16⟩) := by
  simp only [exec, execCall, push_full s.advance _ h]
  rfl

/-! ### The key wait -/

@[simp] theorem State.refetch_advance (s : State) : s.advance.refetch = s := by
  simp [State.refetch, State.advance]

/-- What the key wait does (43 R177): nothing, where no key is pressed or the latched one is held; latch a key; or end. -/
def KeyWaits (x : Reg) (s t : State) : Prop :=
  ((s.kw.phase = .idle ∨ s.key[s.kw.key] = true) ∧ t = s) ∨
  (∃ k : Key, s.kw.phase = .idle ∧ t = (s.setV x (BitVec.ofNat 8 k.val)).setKw .waitRelease k) ∨
  (s.kw.phase = .waitRelease ∧ s.key[s.kw.key] = false ∧ t = s.advance.setKw .idle 0)

theorem keyWaits_of_exec {x : Reg} (h : exec (.ldXK x) s = .next t) : KeyWaits x s t := by
  obtain rfl : s.advance.waitKey x = t := Host.Outcome.next.inj h
  cases hp : s.kw.phase with
  | idle =>
    cases hf : s.advance.firstPressed with
    | none => exact .inl ⟨.inl hp, by simp [State.waitKey, hp, hf]⟩
    | some k =>
      have latch : s.advance.waitKey x = ((s.setV x (BitVec.ofNat 8 k.val)).setKw .waitRelease k).advance.refetch := by
        simp only [State.waitKey, State.advance_kw, hp, hf]
        rfl
      exact .inr (.inl ⟨k, hp, latch.trans (State.refetch_advance _)⟩)
  | waitRelease =>
    by_cases hk : s.key[s.kw.key] = true
    · exact .inl ⟨.inr hk, by simp [State.waitKey, hp, hk]⟩
    · exact .inr (.inr ⟨hp, by simpa using hk, by simp [State.waitKey, hp, hk]⟩)

/-! ### Completion -/

/-- What instruction i leaves where it does not fault: the form of the next state for the instructions that may raise and for
the key wait, and the meaning itself for those whose meaning is one assignment. -/
def Completes (i : Instr) (s t : State) : Prop :=
  match i with
  | .ret => ∃ a p, s.stack[s.sp.val - 1]? = some a ∧ t = { s with pc := a, sp := p }
  | .call nnn => ∃ k p, t = { s with pc := nnn, stack := k, sp := p }
  | .ldBX _ => ∃ m, (Memory.wf s.mem → Memory.wf m) ∧ t = s.advance.setMem m
  | .ldMemX x => ∃ m, (Memory.wf s.mem → Memory.wf m) ∧ t = (s.advance.setMem m).setIndex (s.indexAfterRun x)
  | .ldXMem x => ∃ l : List Byte, l.length = x.val + 1 ∧ t = (s.advance.loadRegs l).setIndex (s.indexAfterRun x)
  | .drw x y _ => ∃ l, t = s.advance.drawSprite (spriteColumn (s.getV x)) (spriteRow (s.getV y)) l
  | .ldXK x => KeyWaits x s t
  | i => exec i s = .next t

/-- A fatal fault of an instruction that may raise one. -/
def Faults (i : Instr) (s t : State) : Prop :=
  MayRaise i ∧ ∃ r : Raise, r.kind.Fatal ∧ t = s.fatalFault (some (encode i)) r

/-- An instruction that may raise ends with the state its run leads to, or with the run's fault. -/
theorem conclude_map_cases {α : Type} {run : Except Raise α} {f : α → State}
    (h : conclude i s (run.map f) = .next t) :
    (∃ a, run = .ok a ∧ t = f a) ∨ ∃ r, run = .error r ∧ t = s.fatalFault (some (encode i)) r := by
  cases run with
  | ok a => exact .inl ⟨a, rfl, (Host.Outcome.next.inj h).symm⟩
  | error r => exact .inr ⟨r, rfl, (Host.Outcome.next.inj h).symm⟩

/-- Every instruction faults, where it may raise, or completes. -/
theorem exec_cases (h : exec i s = .next t) : Faults i s t ∨ Completes i s t := by
  cases i
  case ret =>
    rcases Nat.eq_zero_or_pos s.sp.val with hsp | hsp
    · cases (exec_ret_of_empty hsp).symm.trans h
      exact .inl ⟨trivial, _, .inr (.inr rfl), rfl⟩
    · cases (exec_ret_of_pos hsp).symm.trans h
      exact .inr ⟨_, _, Vector.getElem?_eq_getElem _, rfl⟩
  case call nnn =>
    rcases Nat.lt_or_ge s.sp.val 16 with hsp | hsp
    · cases (exec_call_of_room nnn hsp).symm.trans h
      exact .inr ⟨_, _, rfl⟩
    · cases (exec_call_of_full nnn (by omega)).symm.trans h
      exact .inl ⟨trivial, _, .inr (.inl rfl), rfl⟩
  case ldBX =>
    rcases conclude_map_cases h with ⟨m, hm, ht⟩ | ⟨r, hr, ht⟩
    · exact .inr ⟨m, writeRun_wf hm, ht⟩
    · exact .inl ⟨trivial, r, .inl (writeRun_error_kind hr), ht⟩
  case ldMemX =>
    rcases conclude_map_cases h with ⟨m, hm, ht⟩ | ⟨r, hr, ht⟩
    · exact .inr ⟨m, writeRun_wf hm, ht⟩
    · exact .inl ⟨trivial, r, .inl (writeRun_error_kind hr), ht⟩
  case ldXMem x =>
    rcases conclude_map_cases h with ⟨l, hl, ht⟩ | ⟨r, hr, ht⟩
    · exact .inr ⟨l, readRun_length hl, ht⟩
    · exact .inl ⟨trivial, r, .inl (readRun_error_kind hr), ht⟩
  case drw =>
    rcases conclude_map_cases h with ⟨l, -, ht⟩ | ⟨r, hr, ht⟩
    · exact .inr ⟨l, ht⟩
    · exact .inl ⟨trivial, r, .inl (readRun_error_kind hr), ht⟩
  case ldXK => exact .inr (keyWaits_of_exec h)
  all_goals exact .inr h

end Sys2Proof.Machine
end

section
/-! What a completed instruction leaves unchanged, and where PC goes. -/

namespace Sys2Proof.Machine

open Sys2Proof

variable {s t : State} {i : Instr}

/-- The state that no instruction writes, but for a fault's record and its halt (10_state.md R34 to R39). -/
structure SameControl (s t : State) : Prop where
  halted : t.halted = s.halted
  fault : t.fault = s.fault
  key : t.key = s.key
  qcfg : t.qcfg = s.qcfg
  paused : t.paused = s.paused
  ipf : t.ipf = s.ipf
  unrec : t.unrec = s.unrec
  renders : t.renders = s.renders
  phase : t.phase = s.phase
  turns : t.turns = s.turns
  polls : t.polls = s.polls

theorem Completes.sameControl (h : Completes i s t) : SameControl s t := by
  cases i
  case ret => obtain ⟨a, p, -, rfl⟩ := h; constructor <;> rfl
  case call => obtain ⟨k, p, rfl⟩ := h; constructor <;> rfl
  case ldBX => obtain ⟨m, -, rfl⟩ := h; constructor <;> rfl
  case ldMemX => obtain ⟨m, -, rfl⟩ := h; constructor <;> rfl
  case ldXMem => obtain ⟨l, -, rfl⟩ := h; constructor <;> simp
  case drw => obtain ⟨l, rfl⟩ := h; constructor <;> simp
  case ldXK => obtain ⟨-, rfl⟩ | ⟨k, -, rfl⟩ | ⟨-, -, rfl⟩ := h <;> constructor <;> rfl
  all_goals cases h; constructor <;> simp

/-- Which completed instructions may change which piece of state beside the general registers and PC (10_state.md R25 to R33). -/
structure WritesAsListed (i : Instr) (s t : State) : Prop where
  display : (t.fb = s.fb ∧ t.dirty = s.dirty) ∨ i = .cls ∨ ∃ x y n, i = .drw x y n
  stack : t.stack = s.stack ∨ ∃ nnn, i = .call nnn
  sp : t.sp = s.sp ∨ i = .ret ∨ ∃ nnn, i = .call nnn
  mem : t.mem = s.mem ∨ ∃ x, i = .ldBX x ∨ i = .ldMemX x
  index : t.index = s.index ∨ (∃ nnn, i = .ldI nnn) ∨ ∃ x, i = .addIX x ∨ i = .ldFX x ∨
    ((i = .ldMemX x ∨ i = .ldXMem x) ∧ s.qcfg.memIncI = true)
  dt : t.dt = s.dt ∨ ∃ x, i = .ldDtX x
  st : t.st = s.st ∨ ∃ x, i = .ldStX x
  kw : t.kw = s.kw ∨ ∃ x, i = .ldXK x
  rng : t.rng = s.rng ∨ ∃ x nn, i = .rnd x nn

theorem indexAfterRun_ne (s : State) (x : Reg) : s.indexAfterRun x = s.index ∨ s.qcfg.memIncI = true := by
  unfold State.indexAfterRun
  cases s.qcfg.memIncI
  · exact .inl rfl
  · exact .inr rfl

theorem Completes.writesAsListed (h : Completes i s t) : WritesAsListed i s t := by
  cases i
  case ret => obtain ⟨a, p, -, rfl⟩ := h; constructor <;> simp
  case call => obtain ⟨k, p, rfl⟩ := h; constructor <;> simp
  case ldBX => obtain ⟨m, -, rfl⟩ := h; constructor <;> simp
  case ldMemX x => obtain ⟨m, -, rfl⟩ := h; constructor <;> simp [indexAfterRun_ne]
  case ldXMem x => obtain ⟨l, -, rfl⟩ := h; constructor <;> simp [indexAfterRun_ne]
  case drw => obtain ⟨l, rfl⟩ := h; constructor <;> simp
  case ldXK => obtain ⟨-, rfl⟩ | ⟨k, -, rfl⟩ | ⟨-, -, rfl⟩ := h <;> constructor <;> simp
  all_goals cases h; constructor <;> simp

theorem Completes.mem_wf (h : Completes i s t) (hwf : Memory.wf s.mem) : Memory.wf t.mem := by
  rcases h.writesAsListed.mem with hm | ⟨x, rfl | rfl⟩
  · exact hm ▸ hwf
  · obtain ⟨m, hm, rfl⟩ := h; exact hm hwf
  · obtain ⟨m, hm, rfl⟩ := h; exact hm hwf

/-! ### General registers -/

theorem eq_of_getV_setV_ne {x r : Reg} {b : Byte} (h : (s.setV x b).getV r ≠ s.getV r) : r = x :=
  not_imp_comm.mp (State.getV_setV_of_ne s b) h

theorem eq_of_getV_setResultFlag_ne {x r : Reg} {b f : Byte} (h : (s.setResultFlag x b f).getV r ≠ s.getV r) :
    r = x ∨ r = 15 := by
  by_contra hr
  obtain ⟨hx, hf⟩ := not_or.mp hr
  simp [State.getV_setResultFlag, vF, hx, hf] at h

theorem eq_of_getV_setFlagIf_ne {r : Reg} {c : Bool} {b : Byte} (h : (s.setFlagIf c b).getV r ≠ s.getV r) :
    r = 15 ∧ c = true := by
  by_contra hr
  rw [State.getV_setFlagIf, if_neg (fun k => hr ⟨k.2, k.1⟩)] at h
  exact h rfl

/-- The logic operations: VX, and VF where the quirk asks for it. -/
theorem eq_of_getV_setV_setFlagIf_ne {x r : Reg} {c : Bool} {b f : Byte}
    (h : ((s.setV x b).setFlagIf c f).getV r ≠ s.getV r) : r = x ∨ r = 15 ∧ c = true := by
  by_cases hr : (s.setV x b).getV r = s.getV r
  · exact .inr (eq_of_getV_setFlagIf_ne (hr ▸ h))
  · exact .inl (eq_of_getV_setV_ne hr)

theorem le_of_getV_loadRegs_ne {x r : Reg} {l : List Byte} (hl : l.length = x.val + 1)
    (h : (s.loadRegs l).getV r ≠ s.getV r) : r ≤ x := by
  by_contra hr
  have : l.length ≤ r.val := by rw [hl]; exact not_le.mp hr
  simp [State.getV_loadRegs, List.getElem?_eq_none this] at h

theorem Completes.mayWriteReg (h : Completes i s t) (r : Reg) (hr : t.getV r ≠ s.getV r) : MayWriteReg s i r := by
  cases i
  case ret => obtain ⟨a, p, -, rfl⟩ := h; exact hr rfl
  case call => obtain ⟨k, p, rfl⟩ := h; exact hr rfl
  case ldBX => obtain ⟨m, -, rfl⟩ := h; exact hr rfl
  case ldMemX => obtain ⟨m, -, rfl⟩ := h; exact hr rfl
  case ldXMem => obtain ⟨l, hl, rfl⟩ := h; exact le_of_getV_loadRegs_ne hl hr
  case drw =>
    obtain ⟨l, rfl⟩ := h
    by_contra hf
    exact hr (State.getV_drawSprite _ _ _ _ _ hf)
  case ldXK =>
    obtain ⟨-, rfl⟩ | ⟨k, -, rfl⟩ | ⟨-, -, rfl⟩ := h
    · exact absurd rfl hr
    · exact eq_of_getV_setV_ne hr
    · exact absurd rfl hr
  case or => cases h; exact eq_of_getV_setV_setFlagIf_ne hr
  case and => cases h; exact eq_of_getV_setV_setFlagIf_ne hr
  case xor => cases h; exact eq_of_getV_setV_setFlagIf_ne hr
  case addIX => cases h; exact eq_of_getV_setFlagIf_ne hr
  case addReg | sub | shr | subn | shl => cases h; exact eq_of_getV_setResultFlag_ne hr
  case ldImm | addImm | ldReg | rnd | ldXDt => cases h; exact eq_of_getV_setV_ne hr
  all_goals cases h; exact hr (State.getV_eq_of_v (by simp) r)

end Sys2Proof.Machine
end

section
/-! The invariant: each atomic step keeps it. -/

namespace Sys2Proof.Machine

open Sys2Proof

variable {s t : State} {i : Instr} {w : Word}

/-! ### The word at a key wait -/

/-- R177, R179: in the second phase of a key wait the decoded instruction is its FX0A. -/
theorem Inv.decode_of_waiting (hs : Inv s) (hk : s.kw.phase = .waitRelease) (hf : fetch s.mem s.pc = .ok w) :
    ∃ x, decode w = .instr (.ldXK x) := by
  obtain ⟨x, hx, -⟩ := hs.waitAtFx0a hk
  cases hf.symm.trans hx
  exact ⟨x, decode_encode _⟩

/-! ### The Timer, the poll and the present -/

theorem Inv.takeTurn (hs : Inv s) : Inv s.takeTurn :=
  ⟨hs.memWf, hs.idleKey, hs.waitAtFx0a, hs.faultHalts, hs.faultFatal, hs.budget, hs.unrecListed, hs.rendersCover⟩

theorem Inv.tick (hs : Inv s) : Inv (tick s) :=
  ⟨hs.memWf, hs.idleKey, hs.waitAtFx0a, hs.faultHalts, hs.faultFatal, hs.budget, hs.unrecListed, hs.rendersCover⟩

theorem Phase.afterBudget_eq_execute {left n : Nat} (h : Phase.afterBudget left = .execute n) : left = n + 1 := by
  cases left with
  | zero => cases h
  | succ m => cases h; rfl

/-- R224, R226: after a poll the machine executes only where it is not paused, and then inside its budget. -/
theorem phaseAfterPoll_eq_execute {n : Nat} (h : s.phaseAfterPoll = .execute n) : s.paused = false ∧ n < s.ipf := by
  have hl := Phase.afterBudget_eq_execute h
  cases hp : s.paused with
  | true => simp [hp] at hl
  | false =>
    simp only [hp, Bool.false_eq_true, if_false] at hl
    exact ⟨rfl, by omega⟩

theorem Inv.poll (hs : Inv s) : Inv { poll s with phase := (poll s).phaseAfterPoll } where
  memWf := hs.memWf
  idleKey := hs.idleKey
  waitAtFx0a := hs.waitAtFx0a
  faultHalts hf := Bool.or_eq_true_iff.mpr (.inl (hs.faultHalts hf))
  faultFatal := hs.faultFatal
  budget _ hn := phaseAfterPoll_eq_execute hn
  unrecListed := hs.unrecListed
  rendersCover := hs.rendersCover

/-- R199: where there are changes, the region list is not empty and lies in the grid. -/
theorem Dirty.regions_cover {d : Dirty} (n : Nat) (h : d.hasChanges = true) :
    d.regions n ≠ [] ∧ ∀ g ∈ d.regions n, g.inGrid = true := by
  unfold Dirty.regions
  cases hw : d.whole with
  | true => simp [Region.inGrid]
  | false =>
    obtain ⟨hgrid, hcover, -⟩ := regionCover_spec n d.cells
    refine ⟨fun hnil => ?_, hgrid⟩
    rcases (Dirty.hasChanges_iff d).mp h with h | ⟨x, y, hx, hy, hc⟩
    · rw [hw] at h; cases h
    · obtain ⟨r, hr, -⟩ := hcover x y hx hy hc
      change regionCover n d.cells = [] at hnil
      simp [hnil] at hr

theorem Inv.present (hs : Inv s) : Inv { present s with phase := .poll } := by
  unfold Machine.present
  split
  next hd =>
    refine ⟨hs.memWf, hs.idleKey, hs.waitAtFx0a, hs.faultHalts, hs.faultFatal, nofun, hs.unrecListed, fun r hr => ?_⟩
    rcases List.mem_append.mp hr with hr | hr
    · exact hs.rendersCover r hr
    · cases List.mem_singleton.mp hr
      exact Dirty.regions_cover _ hd
  next =>
    exact ⟨hs.memWf, hs.idleKey, hs.waitAtFx0a, hs.faultHalts, hs.faultFatal, nofun, hs.unrecListed, hs.rendersCover⟩

/-! ### The CPU step -/

theorem Inv.fatalFault (hs : Inv s) (word : Option Word) {r : Raise} (hr : r.kind.Fatal) :
    Inv (s.fatalFault word r) where
  memWf := hs.memWf
  idleKey := hs.idleKey
  waitAtFx0a := hs.waitAtFx0a
  faultHalts _ := rfl
  faultFatal := by rintro f ⟨⟩; exact hr
  budget := hs.budget
  unrecListed := hs.unrecListed
  rendersCover := hs.rendersCover

theorem Inv.signalUnrecognized (hs : Inv s) {u : Word} (hf : fetch s.mem s.pc = .ok w)
    (hd : decode w = .unrecognized u) : Inv (s.signalUnrecognized u) where
  memWf := hs.memWf
  idleKey := hs.idleKey
  waitAtFx0a hk := by
    obtain ⟨x, hx⟩ := hs.decode_of_waiting hk hf
    cases hd.symm.trans hx
  faultHalts := hs.faultHalts
  faultFatal := hs.faultFatal
  budget := hs.budget
  unrecListed e he := by
    rcases List.mem_append.mp he with he | he
    · exact hs.unrecListed e he
    · cases List.mem_singleton.mp he
      exact wellFormedWord_of_unrecognized hd
  rendersCover := hs.rendersCover

/-- The two clauses of the invariant about the key wait (R177, R179). -/
def WaitsAtItsWord (s : State) : Prop :=
  (s.kw.phase = .idle → s.kw.key = 0) ∧
  (s.kw.phase = .waitRelease →
    ∃ x : Reg, fetch s.mem s.pc = .ok (encode (.ldXK x)) ∧ s.getV x = BitVec.ofNat 8 s.kw.key.val)

theorem Inv.waitsAtItsWord (hs : Inv s) : WaitsAtItsWord s := ⟨hs.idleKey, hs.waitAtFx0a⟩

/-- Only FX0A runs in the second phase of a key wait, and it moves PC on only as it ends the wait. -/
theorem Completes.waitsAtItsWord (hs : Inv s) (hf : fetch s.mem s.pc = .ok w) (hd : decode w = .instr i)
    (hc : Completes i s t) : WaitsAtItsWord t := by
  by_cases hi : ∃ x, i = .ldXK x
  · obtain ⟨x, rfl⟩ := hi
    obtain ⟨-, rfl⟩ | ⟨k, -, rfl⟩ | ⟨-, -, rfl⟩ : KeyWaits x s t := hc
    · exact hs.waitsAtItsWord
    · exact ⟨nofun, fun _ => ⟨x, encode_of_decode hd ▸ hf, State.getV_setV_same _ _ _⟩⟩
    · exact ⟨fun _ => rfl, nofun⟩
  · have hkw : t.kw = s.kw := hc.writesAsListed.kw.resolve_right hi
    have notWaiting : s.kw.phase ≠ .waitRelease := fun hk => by
      obtain ⟨x, hx⟩ := hs.decode_of_waiting hk hf
      cases hd.symm.trans hx
      exact hi ⟨x, rfl⟩
    rw [WaitsAtItsWord, hkw]
    exact ⟨hs.idleKey, fun hk => absurd hk notWaiting⟩

theorem Inv.exec (hs : Inv s) (hf : fetch s.mem s.pc = .ok w) (hd : decode w = .instr i)
    (h : exec i s = .next t) : Inv t := by
  rcases exec_cases h with ⟨-, r, hr, rfl⟩ | hc
  · exact hs.fatalFault _ hr
  · have same := hc.sameControl
    obtain ⟨hidle, hwait⟩ := hc.waitsAtItsWord hs hf hd
    exact {
      memWf := hc.mem_wf hs.memWf
      idleKey := hidle
      waitAtFx0a := hwait
      faultHalts := by rw [same.fault, same.halted]; exact hs.faultHalts
      faultFatal := by rw [same.fault]; exact hs.faultFatal
      budget := by rw [same.phase, same.paused, same.ipf]; exact hs.budget
      unrecListed := by rw [same.unrec]; exact hs.unrecListed
      rendersCover := by rw [same.renders]; exact hs.rendersCover }

theorem Inv.cpuStep (hs : Inv s) (h : cpuStep s = .next t) : Inv t := by
  rcases cpuStep_cases s with ⟨r, hf, e⟩ | ⟨w, u, hf, hd, e⟩ | ⟨w, i, hf, hd, e⟩
  · cases e.symm.trans h
    exact hs.fatalFault none (.inl (fetch_error_kind hf))
  · cases e.symm.trans h
    exact hs.signalUnrecognized hf hd
  · exact hs.exec hf hd (e.symm.trans h)

/-- R224: counting the budget down keeps the machine inside it. -/
theorem Inv.afterBudget (hs : Inv s) {n : Nat} (hp : s.phase = .execute n) :
    Inv { s with phase := Phase.afterBudget n } where
  memWf := hs.memWf
  idleKey := hs.idleKey
  waitAtFx0a := hs.waitAtFx0a
  faultHalts := hs.faultHalts
  faultFatal := hs.faultFatal
  budget m hm := by
    obtain ⟨hpaused, hlt⟩ := hs.budget n hp
    have hn : n = m + 1 := Phase.afterBudget_eq_execute hm
    exact ⟨hpaused, show m < s.ipf by omega⟩
  unrecListed := hs.unrecListed
  rendersCover := hs.rendersCover

/-- Settles O60: each atomic step of each agent keeps the invariant. -/
theorem stepKeepsInv : Obligations.StepKeepsInv := by
  intro s t hs h
  rcases step_cases s with ⟨-, e⟩ | ⟨-, ⟨-, e⟩ | ⟨-, -, e⟩ | ⟨n, -, hp, e⟩ | ⟨-, -, e⟩⟩
  · cases e.symm.trans h
  · cases e.symm.trans h
    exact hs.takeTurn.tick
  · cases e.symm.trans h
    exact hs.takeTurn.poll
  · exact (hs.takeTurn.afterBudget hp).cpuStep (e.symm.trans h)
  · cases e.symm.trans h
    exact hs.takeTurn.present

/-! ### Creation -/

/-- A created machine meets the invariant with whatever canonical memory it is given (R240). -/
theorem inv_of_created (q : Quirks) (ipf : Nat) {m : Memory} (hm : Memory.wf m) :
    Inv { State.reset with qcfg := q, ipf := ipf, mem := m } where
  memWf := hm
  idleKey _ := rfl
  waitAtFx0a := nofun
  faultHalts h := absurd rfl h
  faultFatal := nofun
  budget := nofun
  unrecListed := nofun
  rendersCover := nofun

theorem create_eq_ok {q : Quirks} {ipf : Nat} {rom : List Byte} (h : State.create q ipf rom = .ok s) :
    ∃ m, writeRun [] progBase rom = .ok m ∧ s = { State.reset with qcfg := q, ipf := ipf, mem := m } := by
  unfold State.create loadRom at h
  split at h
  · cases h
  · cases hm : writeRun State.reset.mem progBase rom with
    | error r => rw [hm] at h; cases h
    | ok m => rw [hm] at h; cases h; exact ⟨m, hm, rfl⟩

/-- Settles O59: reset lists no byte of memory, and every load keeps the list canonical. -/
theorem invHoldsAtCreation : Obligations.InvHoldsAtCreation := by
  refine ⟨inv_of_created State.reset.qcfg State.reset.ipf Memory.wf_nil, fun q ipf rom s h => ?_⟩
  obtain ⟨m, hm, rfl⟩ := create_eq_ok h
  exact inv_of_created q ipf (writeRun_wf hm Memory.wf_nil)

end Sys2Proof.Machine
end

section
/-! What instructions and steps write: HALTED and FAULT, PC, and every piece of state (10_state.md R20 to R39). -/

namespace Sys2Proof.Machine

open Sys2Proof

variable {s t : State} {i : Instr}

/-! ### Where PC goes -/

/-- R24: an instruction that is none of those listed leaves PC at the fetch's advance. -/
theorem Completes.pc_eq (h : Completes i s t) (hi : ¬ MayWritePc i) : t.pc = s.pc + 2#12 := by
  cases i
  case seImm | sneImm | seReg | sneReg | skp | sknp | jp | call | jpV0 | ret | ldXK => exact absurd trivial hi
  case ldBX => obtain ⟨m, -, rfl⟩ := h; rfl
  case ldMemX => obtain ⟨m, -, rfl⟩ := h; rfl
  case ldXMem => obtain ⟨l, -, rfl⟩ := h; rfl
  case drw => obtain ⟨l, rfl⟩ := h; exact State.drawSprite_pc _ _ _ _
  all_goals cases h; simp

/-- BNNN's target, reduced once, is the sum of 12-bit addresses (40 R105). -/
theorem jumpTarget_eq (nnn : Addr) (b : Byte) :
    BitVec.ofNat 12 (nnn.toNat + b.toNat) = nnn + b.setWidth 12 := by
  apply BitVec.eq_of_toNat_eq
  simp

theorem cpuStep_unrecognized {w u : Word} (hf : fetch s.mem s.pc = .ok w) (hd : decode w = .unrecognized u) :
    cpuStep s = .next (s.signalUnrecognized u) := by
  simp [cpuStep, hf, hd]

theorem cpuStep_fetchFault {r : Raise} (hf : fetch s.mem s.pc = .error r) :
    cpuStep s = .next (s.fatalFault none r) := by
  simp [cpuStep, hf]

/-- R177: the key wait leaves PC at its FX0A until the latched key's release. -/
theorem KeyWaits.pc_eq {x : Reg} (h : KeyWaits x s t) :
    t.pc = if s.kw.phase = .idle ∨ s.key[s.kw.key] = true then s.pc + 2#12 - 2#12 else s.pc + 2#12 := by
  obtain ⟨hw, rfl⟩ | ⟨k, hidle, rfl⟩ | ⟨hwait, hk, rfl⟩ := h
  · rw [if_pos hw, BitVec.add_sub_cancel]
  · rw [if_pos (.inl hidle), BitVec.add_sub_cancel]
    rfl
  · rw [if_neg (by simp [hwait, hk])]
    rfl

/-- Settles O54: a faulting instruction changes FAULT and HALTED alone, and a completed one writes what the tables
`MayWriteReg`, `MayWritePc` and `WritesAsListed` give it. -/
theorem onlyTheirInstructionsWrite : Obligations.OnlyTheirInstructionsWrite := by
  intro i s t h
  rcases exec_cases h with ⟨hi, r, -, rfl⟩ | hc
  · simp [hi]
  · have same := hc.sameControl
    have writes := hc.writesAsListed
    exact ⟨hc.mayWriteReg, fun hpc => .inl (not_imp_comm.mp hc.pc_eq hpc),
      fun hn => absurd same.halted hn, fun hn => absurd same.fault hn,
      fun hn => writes.display.resolve_left fun e => hn e.1,
      fun hn => writes.display.resolve_left fun e => hn e.2,
      writes.stack.resolve_left, writes.sp.resolve_left, writes.mem.resolve_left, writes.index.resolve_left,
      writes.dt.resolve_left, writes.st.resolve_left, writes.kw.resolve_left, writes.rng.resolve_left,
      same.key, same.qcfg, same.paused, same.ipf, same.unrec, same.renders, same.phase, same.turns, same.polls⟩

/-! ### Halting -/

/-- A CPU step leaves HALTED and FAULT alone, or is a fatal fault. -/
theorem cpuStep_control (h : cpuStep s = .next t) :
    (t.halted = s.halted ∧ t.fault = s.fault) ∨ ∃ word r, t = s.fatalFault word r := by
  rcases cpuStep_cases s with ⟨r, -, e⟩ | ⟨w, u, -, -, e⟩ | ⟨w, i, -, -, e⟩
  · cases e.symm.trans h
    exact .inr ⟨none, r, rfl⟩
  · cases e.symm.trans h
    exact .inl ⟨rfl, rfl⟩
  · rcases exec_cases (e.symm.trans h) with ⟨-, r, -, rfl⟩ | hc
    · exact .inr ⟨_, r, rfl⟩
    · exact .inl ⟨hc.sameControl.halted, hc.sameControl.fault⟩

@[simp] theorem present_pc (s : State) : (present s).pc = s.pc := by unfold present; split <;> rfl

@[simp] theorem present_halted (s : State) : (present s).halted = s.halted := by unfold present; split <;> rfl

@[simp] theorem present_fault (s : State) : (present s).fault = s.fault := by unfold present; split <;> rfl

/-- Settles O10: of the four atomic steps only the CPU step, by a fatal fault, and the poll, by a shutdown, set HALTED. -/
theorem haltedMachineNeverSteps : Obligations.HaltedMachineNeverSteps := by
  refine ⟨fun s hs => step_halted hs, fun s t h => ?_⟩
  rcases step_cases s with ⟨-, e⟩ | ⟨hh, ⟨ha, e⟩ | ⟨-, hp, e⟩ | ⟨n, -, hp, e⟩ | ⟨-, hp, e⟩⟩
  · cases e.symm.trans h
  · cases e.symm.trans h
    simp [hh, ha]
  · cases e.symm.trans h
    have hhalted : (poll s.takeTurn).halted = s.nextReply.shutdown := by
      show (s.halted || s.nextReply.shutdown) = _
      rw [hh, Bool.false_or]
    exact ⟨hh, fun ht => .inr ⟨hp, hhalted ▸ ht, rfl⟩, fun hf => absurd rfl hf, fun _ _ hs => hhalted.trans hs⟩
  · refine ⟨hh, ?_⟩
    rcases cpuStep_control (e.symm.trans h) with ⟨hhalted, hfault⟩ | ⟨word, r, rfl⟩
    · rw [show t.halted = false from hhalted.trans hh, show t.fault = s.fault from hfault]
      simp [hp]
    · exact ⟨fun _ => .inl ⟨n, _, hp, rfl, rfl⟩, fun _ => rfl, fun _ _ _ => rfl⟩
  · cases e.symm.trans h
    simp [hh, hp]

/-! ### PC -/

/-- Settles O57: a fatal fault keeps PC, the instructions of `MayWritePc` set it one by one, the rest leave the fetch's advance;
no step but a CPU step touches it. -/
theorem pcChangesOnlyAsListed : Obligations.PcChangesOnlyAsListed := by
  refine ⟨fun i s t hs h => ?_, fun s t h => ⟨fun w hf hd => ?_, fun r hf => ?_⟩, fun s t h hstep => ?_⟩
  · rcases exec_cases h with ⟨-, r, -, rfl⟩ | hc
    · exact rfl
    · rw [hc.sameControl.halted, hs, if_neg Bool.false_ne_true]
      cases i
      case seImm | sneImm | seReg | sneReg | skp => cases hc; simp
      case sknp x => cases hc; cases hp : s.pressed (s.getV x) <;> simp [hp]
      case jp => cases hc; rfl
      case jpV0 => cases hc; exact jumpTarget_eq _ _
      case call => obtain ⟨k, p, rfl⟩ := hc; rfl
      case ret => obtain ⟨a, p, ha, rfl⟩ := hc; exact ha
      case ldXK => exact KeyWaits.pc_eq hc
      all_goals exact hc.pc_eq id
  · cases (cpuStep_unrecognized hf hd).symm.trans h
    rfl
  · cases (cpuStep_fetchFault hf).symm.trans h
    rfl
  · rcases step_cases s with ⟨-, e⟩ | ⟨-, ⟨-, e⟩ | ⟨-, -, e⟩ | ⟨n, ha, hp, -⟩ | ⟨-, -, e⟩⟩
    · cases e.symm.trans h
    · cases e.symm.trans h
      rfl
    · cases e.symm.trans h
      rfl
    · simp [ha, hp] at hstep
    · cases e.symm.trans h
      exact present_pc _

end Sys2Proof.Machine
end

section
/-! What single instructions do: the display is invisible to all but two, the flag wins over the result, the call stack. -/

namespace Sys2Proof.Machine

open Sys2Proof

variable {s t : State} {i : Instr}

/-! ### The state with another display -/

/-- The state with FB and DIRTY exchanged. -/
def State.withDisplay (s : State) (g : Grid) (d : Dirty) : State := { s with fb := g, dirty := d }

section
variable {g : Grid} {d : Dirty} {u u' : State}

theorem skipIf_withDisplay {c : Bool} (hu : u' = u.withDisplay g d) : u'.skipIf c = (u.skipIf c).withDisplay g d := by
  subst hu
  cases c <;> rfl

theorem setFlagIf_withDisplay {c : Bool} {b : Byte} (hu : u' = u.withDisplay g d) :
    u'.setFlagIf c b = (u.setFlagIf c b).withDisplay g d := by
  subst hu
  cases c <;> rfl

/-- The key wait reads KW and KEY alone. -/
theorem waitKey_withDisplay {x : Reg} (hu : u' = u.withDisplay g d) :
    u'.waitKey x = (u.waitKey x).withDisplay g d := by
  subst hu
  have hkw : (u.withDisplay g d).kw = u.kw := rfl
  have hkey : (u.withDisplay g d).key = u.key := rfl
  have hscan : (u.withDisplay g d).firstPressed = u.firstPressed := rfl
  simp only [State.waitKey, hkw, hkey, hscan]
  cases u.kw.phase with
  | idle => cases u.firstPressed <;> rfl
  | waitRelease => dsimp only; split <;> rfl

/-- A run of reads or writes that does not see the display ends the same with another one. -/
theorem conclude_map_withDisplay {α : Type} {run : Except Raise α} {f f' : α → State}
    (hf : ∀ a, f' a = (f a).withDisplay g d) (h : conclude i s (run.map f) = .next t) :
    conclude i (s.withDisplay g d) (run.map f') = .next (t.withDisplay g d) := by
  rcases conclude_map_cases h with ⟨a, rfl, rfl⟩ | ⟨r, rfl, rfl⟩
  · exact congrArg Host.Outcome.next (hf a)
  · rfl

end

/-- Settles O56: each update that an instruction but CLS and DRW is made of reads no part of the display, so exchanging the
display before or after it is the same. -/
theorem displayIsInvisibleToOtherInstructions : Obligations.DisplayIsInvisibleToOtherInstructions := by
  intro i s t g d hcls hdrw h
  show exec i (s.withDisplay g d) = .next (t.withDisplay g d)
  cases i
  case cls => exact absurd rfl hcls
  case drw x y n => exact absurd rfl (hdrw x y n)
  case ret =>
    rcases Nat.eq_zero_or_pos s.sp.val with hsp | hsp
    · cases (exec_ret_of_empty hsp).symm.trans h
      exact exec_ret_of_empty (s := s.withDisplay g d) hsp
    · cases (exec_ret_of_pos hsp).symm.trans h
      exact exec_ret_of_pos (s := s.withDisplay g d) hsp
  case call nnn =>
    rcases Nat.lt_or_ge s.sp.val 16 with hsp | hsp
    · cases (exec_call_of_room nnn hsp).symm.trans h
      exact exec_call_of_room (s := s.withDisplay g d) nnn hsp
    · have hfull : s.sp.val = 16 := by omega
      cases (exec_call_of_full nnn hfull).symm.trans h
      exact exec_call_of_full (s := s.withDisplay g d) nnn hfull
  case ldBX | ldMemX | ldXMem => exact conclude_map_withDisplay (fun _ => rfl) h
  case ldXK => cases h; exact congrArg Host.Outcome.next (waitKey_withDisplay rfl)
  case seImm | sneImm | seReg | sneReg | skp | sknp =>
    cases h; exact congrArg Host.Outcome.next (skipIf_withDisplay rfl)
  case or | and | xor | addIX => cases h; exact congrArg Host.Outcome.next (setFlagIf_withDisplay rfl)
  all_goals cases h; rfl

/-! ### Result and flag in VF (R21, R121) -/

theorem getV_setResultFlag_VF (s : State) (x : Reg) (b f : Byte) : (s.setResultFlag x b f).getV 15 = f :=
  State.getV_setV_same _ _ _

theorem flagByte_toNat (c : Bool) : (flagByte c).toNat = if c = true then 1 else 0 := by
  cases c <;> rfl

theorem addCarry_toNat (a b : Byte) : (addCarry a b).toNat = if a.toNat + b.toNat > 255 then 1 else 0 := by
  simp [addCarry, flagByte_toNat]

theorem noBorrow_toNat (a b : Byte) : (noBorrow a b).toNat = if a.toNat ≥ b.toNat then 1 else 0 := by
  simp [noBorrow, flagByte_toNat]

theorem shrOut_toNat (a : Byte) : (shrOut a).toNat = a.toNat % 2 := by
  rw [shrOut, flagByte_toNat, BitVec.getLsbD, Nat.testBit_zero]
  rcases Nat.mod_two_eq_zero_or_one a.toNat with h | h <;> simp [h]

theorem shlOut_toNat (a : Byte) : (shlOut a).toNat = a.toNat / 128 := by
  have := a.isLt
  rw [shlOut, flagByte_toNat, BitVec.getLsbD, Nat.testBit_eq_decide_div_mod_eq]
  simp only [decide_eq_true_eq]
  split <;> omega

theorem shiftSource_toNat (s : State) (x y : Reg) :
    (s.shiftSource x y).toNat = if s.qcfg.shiftVy then (s.getV y).toNat else (s.getV x).toNat := by
  unfold State.shiftSource
  split <;> rfl

/-- Settles O27: VF is written last, with a flag computed from the state before any write. -/
theorem flagWinsOverResult : Obligations.FlagWinsOverResult := by
  rintro y s a b src rfl rfl rfl
  refine ⟨?_, fun hq i hi => ?_⟩
  · simp only [List.forall_mem_cons]
    refine ⟨⟨_, rfl, ?_⟩, ⟨_, rfl, ?_⟩, ⟨_, rfl, ?_⟩, ⟨_, rfl, ?_⟩, ⟨_, rfl, ?_⟩, nofun⟩
    · rw [getV_setResultFlag_VF, addCarry_toNat]
    · rw [getV_setResultFlag_VF, noBorrow_toNat]
    · rw [getV_setResultFlag_VF, noBorrow_toNat]
    · rw [getV_setResultFlag_VF, shrOut_toNat, shiftSource_toNat]
    · rw [getV_setResultFlag_VF, shlOut_toNat, shiftSource_toNat]
  · have flagReset (b : Byte) : ((s.advance.setV 15 b).setFlagIf s.qcfg.logicVfReset 0#8).getV 15 = 0#8 := by
      rw [hq]
      exact State.getV_setV_same _ _ _
    simp only [List.mem_cons, List.not_mem_nil, or_false] at hi
    rcases hi with rfl | rfl | rfl
    · exact ⟨_, rfl, flagReset _⟩
    · exact ⟨_, rfl, flagReset _⟩
    · exact ⟨_, rfl, flagReset _⟩

/-! ### Call stack -/

/-- Settles O14: `exec_ret_of_pos` gives the whole next state, which differs in PC and SP. -/
theorem returnPopsTheStack : Obligations.ReturnPopsTheStack := fun _ h =>
  ⟨_, exec_ret_of_pos h, Vector.getElem?_eq_getElem _, rfl, rfl, fun _ => rfl⟩

/-- Settles O15: `exec_call_of_room` gives the whole next state; the one stack entry written is that at SP. -/
theorem callPushesTheReturnAddress : Obligations.CallPushesTheReturnAddress := by
  intro nnn s h
  refine ⟨_, exec_call_of_room nnn h, rfl, rfl, ⟨s.pc + 2#12, ?_, ?_⟩, fun j hj => ?_, rfl, fun _ => rfl⟩
  · exact Vector.getElem?_set_self h
  · exact BitVec.toNat_add _ _
  · exact Vector.getElem?_set_ne h hj.symm

/-- Settles O16: at either end of the stack the instruction is the fatal fault alone. -/
theorem stackFaults : Obligations.StackFaults := fun nnn _ =>
  ⟨fun h => ⟨_, exec_ret_of_empty h, rfl⟩, fun h => ⟨_, exec_call_of_full nnn h, rfl⟩⟩

/-! ### Reset -/

theorem unlisted_outside_font {a : Nat} (h : a < 0x050 ∨ 0x0A0 ≤ a) : Memory.unlisted a = 0x00#8 := by
  unfold Memory.unlisted
  split
  · rfl
  · next ha =>
    have hlen : fontTable.length ≤ a - fontBase := by
      have : fontTable.length = 80 := rfl
      simp only [fontBase] at ha ⊢
      omega
    simp [List.getElem?_eq_none hlen]

/-- Settles O52: the lists of registers, stack and keys are constant, and memory at reset lists no byte. -/
theorem resetState : Obligations.ResetState := by
  refine ⟨fun r => ?_, rfl, rfl, rfl, fun j => ?_, rfl, rfl, rfl, Grid.cell_clear, fun k => ?_, rfl, rfl,
    Grid.cell_clear, rfl, rfl, rfl, rfl, fun a ha => unlisted_outside_font ha, rfl, rfl⟩
  · exact Vector.getElem_replicate _
  · exact Vector.getElem_replicate _
  · exact Vector.getElem_replicate _

end Sys2Proof.Machine
end

section
/-! Memory as fetch, FX55 and the ROM load use it (20_memory.md R52, R55, R61), and what the agents but the CPU touch. -/

namespace Sys2Proof.Machine

open Sys2Proof

variable {s : State}

/-! ### Fetch -/

/-- Settles O5: below the top both bytes are read, and at 0xFFF the second address is the first one out of range. -/
theorem fetchReadsBigEndian : Obligations.FetchReadsBigEndian := by
  refine fun m pc => ⟨fun h => ⟨_, fetch_ok m pc h, wordOfBytes_toNat _ _⟩, ?_⟩
  rintro rfl
  exact fetch_top m _ rfl

/-- Settles O8: the CPU step at 0xFFF is the fetch fault, on the state whose budget and turn are already taken. -/
theorem fetchAtTopOfMemoryFaults : Obligations.FetchAtTopOfMemoryFaults := by
  intro s n hh ha hp hpc
  have hfetch : fetch s.mem s.pc = .error ⟨.addressOutOfRange, 0x1000⟩ := hpc ▸ fetch_top s.mem _ rfl
  rw [← hpc]
  exact (step_execute hh ha hp).trans
    (cpuStep_fetchFault (s := { s.takeTurn with phase := Phase.afterBudget n }) hfetch)

/-! ### A run of bytes stored and read back -/

/-- A run of writes inside the address space, by what a read then gives at its addresses and at all others. -/
theorem writeRun_read {a : Nat} {bytes : List Byte} (m : Memory) (h : a + bytes.length ≤ memSize) :
    ∃ m', writeRun m a bytes = .ok m' ∧
      (∀ (k : Nat) (hk : k < bytes.length), Memory.read m' (a + k) = bytes[k]) ∧
      ∀ j : Nat, j < a ∨ a + bytes.length ≤ j → Memory.read m' j = Memory.read m j := by
  obtain ⟨m', hrun, hread, -⟩ := writeRun_ok m a bytes (.inr h)
  refine ⟨m', hrun, fun k hk => ?_, fun j hj => ?_⟩
  · rw [hread, dif_pos ⟨by omega, by omega⟩]
    simp
  · rw [hread, dif_neg (by omega)]

theorem firstRegs_length (s : State) (x : Reg) : (s.firstRegs x).length = x.val + 1 := by
  rw [State.firstRegs, List.length_take, Vector.length_toList]
  omega

theorem firstRegs_getElem (s : State) (x k : Reg) (hk : k.val < (s.firstRegs x).length) :
    (s.firstRegs x)[k.val] = s.getV k :=
  List.getElem_take

/-- FX55 inside the address space (42_index_memory.md R154): V0 to VX stand from I on, and every other byte is as before. -/
theorem exec_ldMemX_of_room {x : Reg} (h : s.index.toNat + x.val < memSize) :
    ∃ m, exec (.ldMemX x) s = .next ((s.advance.setMem m).setIndex (s.indexAfterRun x)) ∧
      (∀ k : Reg, k ≤ x → Memory.read m (s.index.toNat + k.val) = s.getV k) ∧
      ∀ a : Nat, a < s.index.toNat ∨ s.index.toNat + x.val < a → Memory.read m a = Memory.read s.mem a := by
  have hlen := firstRegs_length s x
  obtain ⟨m, hrun, hin, hout⟩ := writeRun_read s.mem (a := s.index.toNat) (bytes := s.firstRegs x) (by omega)
  refine ⟨m, ?_, fun k hk => ?_, fun a ha => hout a (by omega)⟩
  · show execLdMemX x s = _
    rw [execLdMemX, hrun]
    rfl
  · have hk' : k.val < (s.firstRegs x).length := hlen ▸ Nat.lt_succ_of_le hk
    rw [hin k.val hk', firstRegs_getElem]

/-- Settles O34: a fetch reads the memory that the store left, and the bytes at I and I + 1 are V0 and V1. -/
theorem storedWordIsFetched : Obligations.StoredWordIsFetched := by
  intro x s p hroom hx hp
  obtain ⟨m, hexec, hin, -⟩ := exec_ldMemX_of_room hroom
  have hhigh : Memory.read m p.toNat = s.getV 0 := hp ▸ hin 0 (Fin.zero_le x)
  have hlow : Memory.read m (p.toNat + 1) = s.getV 1 := hp ▸ hin 1 hx
  refine ⟨_, _, hexec, fetch_ok m p (by rw [hp]; simp only [memSize]; omega), ?_⟩
  rw [wordOfBytes_toNat, hhigh, hlow]

/-! ### Creation (70_reset_and_hazards.md R240) -/

theorem loadRom_tooLarge (m : Memory) {rom : List Byte} (h : 3584 < rom.length) :
    loadRom m rom = .error ⟨.romTooLarge, rom.length⟩ := if_pos h

theorem loadRom_fits (m : Memory) {rom : List Byte} (h : rom.length ≤ 3584) :
    loadRom m rom = writeRun m progBase rom := if_neg (Nat.not_lt.mpr h)

/-- Settles O53: the load refuses an oversize ROM; any other is a run of writes from 0x200 on that stays in the address space. -/
theorem createLoadsTheRom : Obligations.CreateLoadsTheRom := by
  refine fun q ipf rom => ⟨fun h => ?_, fun h => ?_⟩
  · rw [State.create, loadRom_tooLarge _ h]
    rfl
  · have hroom : progBase + rom.length ≤ memSize := by
      simp only [progBase, memSize]
      omega
    obtain ⟨m, hrun, hin, hout⟩ := writeRun_read State.reset.mem hroom
    refine ⟨{ State.reset with qcfg := q, ipf := ipf, mem := m }, ?_, hin, hout, rfl⟩
    rw [State.create, loadRom_fits _ h, hrun]
    rfl

/-! ### What the other agents touch -/

theorem present_frame (s : State) :
    present s = { s with dirty := (present s).dirty, renders := (present s).renders } := by
  unfold present
  split <;> rfl

/-- Settles O55: at each agent's turn and phase `step` is one equation, whose next state differs in the listed fields. -/
theorem agentsTouchOnlyTheirState : Obligations.AgentsTouchOnlyTheirState := by
  intro s t h
  obtain ⟨running, -⟩ := haltedMachineNeverSteps.2 s t h
  refine ⟨fun ha => ?_, fun ha hp => ?_, fun ha hp => ?_⟩
  · cases (step_timer running ha).symm.trans h
    rfl
  · cases (step_poll running ha hp).symm.trans h
    rfl
  · cases (step_present running ha hp).symm.trans h
    rw [present_frame]
    rfl

end Sys2Proof.Machine
end

section
/-! The decoder's outcomes at every word (30_encoding.md R72, R75, R76, R78, R82). -/

namespace Sys2Proof

variable {w : Word}

/-- Settles O1: `decode_encode` goes through the instructions, `encode_of_decode` through the groups of the decoder. -/
theorem decodeAndEncodeAgree : Obligations.DecodeAndEncodeAgree := ⟨decode_encode, fun _ _ => encode_of_decode⟩

/-! ### The list of R82 refuses no instruction's word -/

theorem toNat_div_eq_fieldOp (w : Word) : w.toNat / 0x1000 = (fieldOp w).toNat := (fieldOp_eq_iff w _).mp rfl

theorem toNat_lt_iff_fieldOp (w : Word) : w.toNat < 0x1000 ↔ fieldOp w = 0x0#4 := by
  rw [fieldOp_eq_iff]
  exact (Nat.div_eq_zero_iff_lt (by decide)).symm

/-- Each clause of R82 reads the top nibble and the sub-opcode, which an assembled word gives back. -/
theorem wellFormedWord_encode (i : Instr) : wellFormedWord (encode i) = true := by
  cases i
  case cls => decide
  case ret => decide
  all_goals
    simp [encode, wellFormedWord, UnrecognizedClause.lists, toNat_div_eq_fieldOp, toNat_lt_iff_fieldOp,
      ← fieldN_toNat, ← fieldNN_toNat]

theorem wellFormedWord_of_decode {i : Instr} (h : decode w = .instr i) : wellFormedWord w = true :=
  encode_of_decode h ▸ wellFormedWord_encode i

theorem decode_unrecognized_iff (w : Word) : decode w = .unrecognized w ↔ wellFormedWord w = false := by
  refine ⟨wellFormedWord_of_unrecognized, fun hw => ?_⟩
  cases hd : decode w with
  | unrecognized u => rw [(unrecognized_listed hd).1]
  | instr i => cases hw.symm.trans (wellFormedWord_of_decode hd)

/-- Settles O2: a word that decodes to an instruction is that instruction's encoding, which no clause lists. -/
theorem unrecognizedWordsAreThoseListed : Obligations.UnrecognizedWordsAreThoseListed :=
  fun w => ⟨decode_unrecognized_iff w, fun _ h => (unrecognized_listed h).1⟩

/-- Settles O4, by running the decoder on each word. -/
theorem sampleWordsDecode : Obligations.SampleWordsDecode := by
  unfold Obligations.SampleWordsDecode
  decide

end Sys2Proof
end

section
/-! The CPU step on the word at PC (30_encoding.md R72, R73, R81), and on the word that the host places there. -/

namespace Sys2Proof.Machine

open Sys2Proof

variable {s : State}

/-- Settles O3: the fields as numbers, and NNN widened to 16 bits keeps its number. -/
theorem fieldsAreUnsignedSlices : Obligations.FieldsAreUnsignedSlices := by
  intro w
  refine ⟨fieldX_val w, fieldY_val w, fieldN_toNat w, fieldNN_toNat w, fieldNNN_toNat w, fun s => ⟨_, rfl, ?_⟩⟩
  show ((fieldNNN w).setWidth 16).toNat = _
  exact (BitVec.toNat_setWidth_of_le (by decide)).trans (fieldNNN_toNat w)

/-! ### A step at the driver's turn in the execute phase -/

theorem cpuStep_instr {w : Word} {i : Instr} (hf : fetch s.mem s.pc = .ok w) (hd : decode w = .instr i) :
    cpuStep s = exec i s := by
  simp [cpuStep, hf, hd]

/-- Settles O6: the CPU step runs on the state whose budget and turn are already taken. -/
theorem stepRunsTheFetchedInstruction : Obligations.StepRunsTheFetchedInstruction := by
  intro s n w i hh ha hp hf hd
  exact (step_execute hh ha hp).trans (cpuStep_instr (s := { s.takeTurn with phase := Phase.afterBudget n }) hf hd)

/-- Settles O7: a word that R82 lists is one that the decoder refuses. -/
theorem stepOnUnrecognizedWord : Obligations.StepOnUnrecognizedWord := by
  intro s n w hh ha hp hf hw
  have hd : decode w = .unrecognized w := (decode_unrecognized_iff w).mpr hw
  exact (step_execute hh ha hp).trans
    (cpuStep_unrecognized (s := { s.takeTurn with phase := Phase.afterBudget n }) hf hd)

/-! ### The host's placing of an instruction (log 8) -/

theorem runningPhase_eq_execute (s : State) : ∃ n, s.runningPhase = .execute n := by
  cases hp : s.phase <;> simp [State.runningPhase, hp]

theorem fetchBase_room (s : State) : s.fetchBase.toNat + 1 < memSize := by
  have := s.pc.isLt
  unfold State.fetchBase memSize
  split_ifs with h
  · decide
  · rw [← BitVec.toNat_inj, BitVec.toNat_ofNat] at h
    omega

/-- A word written high byte first is the word that a fetch at its address gives (20_memory.md R52). -/
theorem fetch_write_word (m : Memory) {p : Addr} (w : Word) (h : p.toNat + 1 < memSize) :
    fetch (Memory.write (Memory.write m p.toNat (highByte w)) (p.toNat + 1) (lowByte w)) p = .ok w := by
  rw [fetch_ok _ _ h]
  simp [Memory.read_write, wordOfBytes_bytes]

theorem read_placeInstruction_of_ne {a : Nat} (w : Word) (hhigh : a ≠ s.fetchBase.toNat)
    (hlow : a ≠ s.fetchBase.toNat + 1) : Memory.read (s.placeInstruction w).mem a = Memory.read s.mem a := by
  simp [State.placeInstruction, Memory.read_write, hhigh, hlow]

/-- Settles O9: the placed state is running, at the driver's turn and in the execute phase, and fetches the placed word; taking
the turn gives the schedule of s back. -/
theorem placedInstructionRunsNext : Obligations.PlacedInstructionRunsNext := by
  intro s i
  obtain ⟨n, hp⟩ := runningPhase_eq_execute s
  have hfetch : fetch (s.placeInstruction (encode i)).mem s.fetchBase = .ok (encode i) :=
    fetch_write_word s.mem (encode i) (fetchBase_room s)
  have hstep := stepRunsTheFetchedInstruction (s.placeInstruction (encode i)) n (encode i) i rfl rfl hp hfetch
    (decode_encode i)
  rw [State.withFetchWord, tableWord_toNat]
  exact ⟨_, hstep, rfl, rfl, hfetch, fun _ => read_placeInstruction_of_ne (encode i)⟩

end Sys2Proof.Machine
end

section
/-! Control flow: return after call, the jumps, and the skips on registers (40_control_flow.md R101 to R109). -/

namespace Sys2Proof.Machine

open Sys2Proof

/-! ### Return after call -/

/-- Settles O17: the call leaves SP one higher and its return address in the entry below, which is the one a return pops. -/
theorem callThenReturnComesBack : Obligations.CallThenReturnComesBack := by
  intro nnn s h
  refine ⟨_, exec_call_of_room nnn h, fun u hstack hsp => ?_⟩
  have hval : u.sp.val = s.sp.val + 1 := congrArg Fin.val hsp
  refine ⟨_, exec_ret_of_pos (by omega), ?_, Fin.ext ?_⟩
  · simp [hstack, hval]
  · simp [hval]

/-! ### Jumps -/

theorem changesOnlyRegs_setPc (s : State) (a : Addr) : ChangesOnlyRegs [] s (s.setPc a) :=
  ⟨rfl, fun _ _ => rfl, fun _ => rfl⟩

/-- Settles O18: either jump overwrites the PC that the fetch advanced. -/
theorem jumpsSetThePc : Obligations.JumpsSetThePc := fun nnn s =>
  ⟨⟨_, rfl, rfl, changesOnlyRegs_setPc s nnn⟩, _, rfl, BitVec.toNat_ofNat _ _, changesOnlyRegs_setPc s _⟩

/-! ### Skips -/

/-- R101: after the fetch's advance, a skip leaves PC four or two bytes on and nothing else changed. -/
theorem skipIf_advance (s : State) (c : Bool) :
    s.advance.skipIf c = s.setPc (s.pc + if c then 4#12 else 2#12) := by
  cases c
  · rfl
  · exact congrArg s.setPc (BitVec.add_assoc s.pc 2#12 2#12)

theorem skipIf_advance_pc_toNat (s : State) (c : Bool) :
    (s.advance.skipIf c).pc.toNat = (s.pc.toNat + if c then 4 else 2) % 4096 := by
  rw [skipIf_advance]
  cases c <;> exact BitVec.toNat_add _ _

theorem changesOnlyRegs_skip (s : State) (c : Bool) : ChangesOnlyRegs [] s (s.advance.skipIf c) := by
  rw [skipIf_advance]
  exact changesOnlyRegs_setPc s _

theorem byte_beq_eq_decide (a b : Byte) : (a == b) = decide (a.toNat = b.toNat) := by
  rw [beq_eq_decide, decide_eq_decide, BitVec.toNat_inj]

theorem byte_bne_eq_decide (a b : Byte) : (a != b) = decide (a.toNat ≠ b.toNat) := by
  rw [bne, byte_beq_eq_decide, decide_not]

/-- Settles O19: each of the four is the skip on its own condition, read over the bytes' values. -/
theorem skipsOnRegisters : Obligations.SkipsOnRegisters := by
  intro x y nn s p hp
  have hexec : exec p.1 s = .next (s.advance.skipIf p.2) := by
    simp only [List.mem_cons, List.not_mem_nil, or_false] at hp
    rcases hp with rfl | rfl | rfl | rfl
    · rw [← byte_beq_eq_decide]; rfl
    · rw [← byte_bne_eq_decide]; rfl
    · rw [← byte_beq_eq_decide]; rfl
    · rw [← byte_bne_eq_decide]; rfl
  exact ⟨_, hexec, skipIf_advance_pc_toNat s p.2, changesOnlyRegs_skip s p.2⟩

end Sys2Proof.Machine
end

section
/-! Register and ALU: the immediate forms and group 8 (41_register_alu.md R120 to R132). -/

namespace Sys2Proof.Machine

open Sys2Proof

/-! ### The two register writes of the family: a result alone, and a result with a flag (R121) -/

theorem changesOnlyRegs_setV (s : State) (x : Reg) (b : Byte) : ChangesOnlyRegs [x] s (s.advance.setV x b) :=
  ⟨rfl, fun _ hr => State.getV_setV_of_ne s.advance b (List.ne_of_not_mem_cons hr), fun _ => rfl⟩

theorem changesOnlyRegs_setResultFlag (s : State) (x : Reg) (b f : Byte) :
    ChangesOnlyRegs [x, 15] s (s.advance.setResultFlag x b f) := by
  refine ⟨rfl, fun r hr => ?_, fun _ => rfl⟩
  by_contra h
  exact hr (by simpa using eq_of_getV_setResultFlag_ne (s := s.advance) h)

theorem getV_setResultFlag_result (s : State) {x : Reg} (b f : Byte) (hx : x ≠ 15) :
    (s.setResultFlag x b f).getV x = b :=
  (State.getV_setV_of_ne _ _ hx).trans (State.getV_setV_same _ _ _)

/-! ### The immediate forms and the copy -/

theorem decode_of_encode {w : Word} {i : Instr} (h : encode i = w) : decode w = .instr i :=
  h ▸ decode_encode i

/-- Settles O20: a word with top nibble 6 is the load's encoding, and the load's one register write is VX. -/
theorem loadImmediate : Obligations.LoadImmediate :=
  ⟨fun w hw => decode_of_encode (wordXNN_eq_of_fieldOp ((fieldOp_eq_iff w 0x6#4).mpr hw)),
    fun x nn s => ⟨_, rfl, State.getV_setV_same _ _ _, rfl, changesOnlyRegs_setV s x nn⟩⟩

/-- Settles O21: a word with top nibble 7 is the addition's encoding, and the addition's one register write is VX. -/
theorem addImmediateWithoutFlag : Obligations.AddImmediateWithoutFlag := by
  refine ⟨fun w hw => decode_of_encode (wordXNN_eq_of_fieldOp ((fieldOp_eq_iff w 0x7#4).mpr hw)),
    fun x nn s => ⟨_, rfl, ?_, rfl, changesOnlyRegs_setV s x _⟩⟩
  rw [State.getV_setV_same, addResult_toNat]

/-- Settles O22: the copy is a result alone, so no quirk has a part in it. -/
theorem copyRegister : Obligations.CopyRegister := fun x y s =>
  ⟨_, rfl, State.getV_setV_same _ _ _, rfl, changesOnlyRegs_setV s x (s.getV y)⟩

/-! ### Logic operations -/

/-- Settles O23: without the quirk each of the three writes a result alone, with it a result and the flag 0. -/
theorem logicOperations : Obligations.LogicOperations := by
  intro x y s p hp
  have hexec : exec p.1 s = .next ((s.advance.setV x p.2).setFlagIf s.qcfg.logicVfReset 0#8) := by
    simp only [List.mem_cons, List.not_mem_nil, or_false] at hp
    rcases hp with rfl | rfl | rfl
    · rfl
    · rfl
    · rfl
  cases hq : s.qcfg.logicVfReset <;> rw [hq] at hexec
  case false => exact ⟨_, hexec, rfl, State.getV_setV_same _ _ _, changesOnlyRegs_setV s x p.2⟩
  case true =>
    exact ⟨_, hexec, rfl, getV_setResultFlag_VF s.advance x p.2 0#8, getV_setResultFlag_result s.advance p.2 0#8,
      changesOnlyRegs_setResultFlag s x p.2 0#8⟩

/-! ### Arithmetic with a carry or no-borrow flag -/

theorem addCarry_eq_ite (a b : Byte) : addCarry a b = if a.toNat + b.toNat > 255 then 1#8 else 0#8 := by
  simp [addCarry, flagByte]

theorem noBorrow_eq_ite (a b : Byte) : noBorrow a b = if a.toNat ≥ b.toNat then 1#8 else 0#8 := by
  simp [noBorrow, flagByte]

/-- R120 (D17): the exact difference, negative where the subtrahend is the larger, mod 256. -/
theorem subResult_toNat_int (a b : Byte) :
    ((subResult a b).toNat : Int) = ((a.toNat : Int) - (b.toNat : Int)) % 256 := by
  rw [subResult_toNat]
  omega

/-- Settles O24: sum and carry are both of the operands as the state before the instruction holds them. -/
theorem addWithCarry : Obligations.AddWithCarry := by
  refine fun x y s => ⟨_, rfl, rfl, fun hx => ?_, ?_, changesOnlyRegs_setResultFlag s x _ _⟩
  · rw [getV_setResultFlag_result _ _ _ hx, addResult_toNat]
  · rw [getV_setResultFlag_VF, addCarry_eq_ite]

/-- Settles O25: either instruction subtracts one byte from another, and the no-borrow flag reads both. -/
theorem subtractBothWays : Obligations.SubtractBothWays := by
  intro x y s p hp
  have hexec : ∃ a b : Byte, p.2.1 = a.toNat ∧ p.2.2 = b.toNat ∧
      exec p.1 s = .next (s.advance.setResultFlag x (subResult a b) (noBorrow a b)) := by
    simp only [List.mem_cons, List.not_mem_nil, or_false] at hp
    rcases hp with rfl | rfl
    · exact ⟨s.getV x, s.getV y, rfl, rfl, rfl⟩
    · exact ⟨s.getV y, s.getV x, rfl, rfl, rfl⟩
  obtain ⟨a, b, ha, hb, hexec⟩ := hexec
  rw [ha, hb]
  refine ⟨_, hexec, rfl, fun hx => ?_, ?_, changesOnlyRegs_setResultFlag s x _ _⟩
  · rw [getV_setResultFlag_result _ _ _ hx, subResult_toNat_int]
  · rw [getV_setResultFlag_VF, noBorrow_eq_ite]

/-! ### Shifts -/

/-- Settles O26: result and flag of either shift are both of the one byte that `State.shiftSource` reads. -/
theorem shiftsByOne : Obligations.ShiftsByOne := by
  intro x y s src hsrc
  have hsource : (s.shiftSource x y).toNat = src := hsrc.symm
  refine ⟨⟨_, rfl, rfl, fun hx => ?_, ?_, changesOnlyRegs_setResultFlag s x _ _⟩,
    _, rfl, rfl, fun hx => ?_, ?_, changesOnlyRegs_setResultFlag s x _ _⟩
  · rw [getV_setResultFlag_result _ _ _ hx, shrResult_toNat, hsource]
  · rw [getV_setResultFlag_VF, shrOut_toNat, hsource]
  · rw [getV_setResultFlag_result _ _ _ hx, shlResult_toNat, hsource]
  · rw [getV_setResultFlag_VF, shlOut_toNat, hsource]

end Sys2Proof.Machine
end

section
/-! Index and memory: address faults, the index register, decimal encoding, block transfer (42_index_memory.md R150 to R156). -/

namespace Sys2Proof.Machine

open Sys2Proof

/-! ### The address fault (R153, R154, R155, 44_display.md R193) -/

/-- An instruction whose run raises ends in the fatal fault with the run's record (60_exceptions.md R212). -/
theorem faultedBy_of_run_error {α : Type} {i : Instr} {s : State} {run : Except Raise α} {f : α → State}
    {k : ErrorKind} {info : Nat} (hrun : run = .error ⟨k, info⟩) :
    ∃ t, conclude i s (run.map f) = .next t ∧ FaultedBy i k info s t := by
  subst hrun
  exact ⟨_, rfl, rfl⟩

/-- Settles O13: each of the four is concluded from one run of reads or writes, and a run that leaves the address space raises
with the first address out of range. -/
theorem addressFaultReportsFirstBadAddress : Obligations.AddressFaultReportsFirstBadAddress := by
  intro s x y n
  refine ⟨fun hI => ?_, fun hI => ⟨?_, ?_⟩, fun hrows hI => ?_⟩
  · have hroom : memSize < s.index.toNat + (decimalDigits (s.getV x)).length := Nat.lt_succ_of_le hI
    exact faultedBy_of_run_error (writeRun_error s.mem _ _ (Nat.succ_ne_zero _) hroom)
  · have hlen := firstRegs_length s x
    have hroom : memSize < s.index.toNat + (s.firstRegs x).length := hlen ▸ Nat.lt_succ_of_le hI
    exact faultedBy_of_run_error (writeRun_error s.mem _ _ (by omega) hroom)
  · exact faultedBy_of_run_error (readRun_error s.mem _ _ (Nat.succ_ne_zero _) (Nat.lt_succ_of_le hI))
  · exact faultedBy_of_run_error (readRun_error s.mem _ (s.spriteRows n) hrows hI)

/-! ### The index register -/

/-- Settles O28: a word with top nibble A is the load's encoding, and NNN widened to 16 bits keeps its number. -/
theorem loadIndex : Obligations.LoadIndex :=
  ⟨fun w hw => decode_of_encode (wordNNN_eq_of_fieldOp ((fieldOp_eq_iff w 0xA#4).mpr hw)),
    fun _ _ => ⟨_, rfl, BitVec.toNat_setWidth_of_le (by decide), rfl, rfl, fun _ => rfl⟩⟩

theorem indexOverflow_eq_ite (i : Word) (v : Byte) :
    indexOverflow i v = if i.toNat + v.toNat ≥ 4096 then 1#8 else 0#8 := by
  simp [indexOverflow, flagByte, memSize]

/-- Settles O29: I holds the sum reduced, and the flag, which only the quirk writes, reads the sum unreduced. -/
theorem addToIndex : Obligations.AddToIndex := by
  rintro x s sum rfl
  have hexec : exec (.addIX x) s = .next ((s.advance.setIndex (indexSum s.index (s.getV x))).setFlagIf s.qcfg.fx1eVf
    (indexOverflow s.index (s.getV x))) := rfl
  have hsum : (indexSum s.index (s.getV x)).toNat = (s.index.toNat + (s.getV x).toNat) % 65536 := BitVec.toNat_ofNat _ _
  cases hq : s.qcfg.fx1eVf <;> rw [hq] at hexec
  case false => exact ⟨_, hexec, hsum, rfl, rfl, rfl, fun _ => rfl⟩
  case true =>
    refine ⟨_, hexec, hsum, rfl, ⟨?_, fun r hr => ?_⟩, rfl, fun _ => rfl⟩
    · exact (State.getV_setV_same _ _ _).trans (indexOverflow_eq_ite _ _)
    · exact State.getV_setV_of_ne _ _ (List.ne_of_not_mem_cons hr)

/-- R152: the low nibble of the byte selects the glyph, and no address of a glyph needs a reduction. -/
theorem fontAddress_toNat (v : Byte) : (fontAddress v).toNat = 0x050 + 5 * (v.toNat % 16) := by
  have hnibble : (v &&& 0x0F#8).toNat = v.toNat % 16 := Nat.and_two_pow_sub_one_eq_mod v.toNat 4
  rw [fontAddress, hnibble, BitVec.toNat_ofNat, fontBase]
  omega

/-- Settles O30: a word FX29 is the load's encoding, and the low nibble is at most 15. -/
theorem fontAddressOfDigit : Obligations.FontAddressOfDigit := by
  refine ⟨fun w hop hnn => ?_, fun x s => ?_⟩
  · exact decode_of_encode (wordXNN_eq_of_fields ((fieldOp_eq_iff w 0xF#4).mpr hop) ((fieldNN_eq_iff w 0x29#8).mpr hnn))
  · have haddr : (fontAddress (s.getV x)).toNat = 0x050 + 5 * ((s.getV x).toNat % 16) := fontAddress_toNat _
    have hlow : 0x050 ≤ (fontAddress (s.getV x)).toNat := by omega
    have hhigh : (fontAddress (s.getV x)).toNat ≤ 0x09B := by omega
    exact ⟨_, rfl, haddr, hlow, hhigh, rfl, rfl, fun _ => rfl⟩

/-! ### Decimal encoding -/

theorem digit_toNat {n : Nat} (h : n < 10) : (BitVec.ofNat 8 n).toNat = n :=
  (BitVec.toNat_ofNat n 8).trans (Nat.mod_eq_of_lt (by omega))

/-- Settles O31: the digits, each below 10, are one run of writes from I on that stays in the address space. -/
theorem decimalDigitsAreStored : Obligations.DecimalDigitsAreStored := by
  intro x s hI
  obtain ⟨m, hrun, hin, hout⟩ :=
    writeRun_read s.mem (a := s.index.toNat) (bytes := decimalDigits (s.getV x)) (Nat.succ_le_of_lt hI)
  have hexec : exec (.ldBX x) s = .next (s.advance.setMem m) := by
    show execLdBX x s = _
    rw [execLdBX, hrun]
    rfl
  have hlen : (decimalDigits (s.getV x)).length = 3 := rfl
  have hbyte := (s.getV x).isLt
  refine ⟨_, hexec, rfl, ?_, ?_, ?_, fun a ha => hout a (by omega), rfl⟩
  · exact (congrArg BitVec.toNat (hin 0 (by omega))).trans (digit_toNat (by omega))
  · exact (congrArg BitVec.toNat (hin 1 (by omega))).trans (digit_toNat (by omega))
  · exact (congrArg BitVec.toNat (hin 2 (by omega))).trans (digit_toNat (by omega))

/-! ### Block transfer -/

theorem indexAfterRun_toNat (s : State) (x : Reg) : (s.indexAfterRun x).toNat =
    if s.qcfg.memIncI then (s.index.toNat + x.val + 1) % 65536 else s.index.toNat := by
  unfold State.indexAfterRun
  split
  · exact BitVec.toNat_ofNat _ _
  · rfl

/-- Settles O32: `exec_ldMemX_of_room` gives the whole next state and what a read of it gives at every address. -/
theorem blockStore : Obligations.BlockStore := by
  intro x s hI
  obtain ⟨m, hexec, hin, hout⟩ := exec_ldMemX_of_room hI
  exact ⟨_, hexec, rfl, hin, hout, indexAfterRun_toNat s x, rfl⟩

/-- A load of n bytes, as a vector of registers: the first n hold the bytes, the later ones are as before. -/
theorem exists_v_loadRegs_range (s : State) (f : Nat → Byte) (n : Nat) :
    ∃ v : Vector Byte 16, s.loadRegs ((List.range n).map f) = { s with v := v } ∧
      ∀ k : Reg, v[k] = if k.val < n then f k.val else s.getV k := by
  refine ⟨_, rfl, fun k => (State.getV_loadRegs (s := s) _ k).trans ?_⟩
  split
  · next hk => simp [hk]
  · next hk => simp [hk]

/-- FX65 inside the address space (R155): V0 to VX take the bytes from I on, and every later register is as before. -/
theorem exec_ldXMem_of_room {x : Reg} {s : State} (h : s.index.toNat + x.val < memSize) :
    ∃ v : Vector Byte 16,
      exec (.ldXMem x) s = .next { s with v := v, index := s.indexAfterRun x, pc := s.pc + 2#12 } ∧
      (∀ k : Reg, k ≤ x → v[k] = Memory.read s.mem (s.index.toNat + k.val)) ∧
      ∀ k : Reg, x < k → v[k] = s.getV k := by
  have hrun := readRun_ok s.mem s.index.toNat (x.val + 1) (.inr (Nat.succ_le_of_lt h))
  obtain ⟨v, hload, hv⟩ :=
    exists_v_loadRegs_range s.advance (fun k => Memory.read s.mem (s.index.toNat + k)) (x.val + 1)
  refine ⟨v, ?_, fun k hk => ?_, fun k hk => ?_⟩
  · show execLdXMem x s = _
    rw [execLdXMem, hrun, Except.map, hload]
    rfl
  · exact (hv k).trans (if_pos (Nat.lt_succ_of_le hk))
  · exact (hv k).trans (if_neg (Nat.not_lt.mpr hk))

/-- Settles O33: `exec_ldXMem_of_room` gives the whole next state, register by register. -/
theorem blockLoad : Obligations.BlockLoad := by
  intro x s hI
  obtain ⟨v, hexec, hin, hout⟩ := exec_ldXMem_of_room hI
  exact ⟨_, hexec, rfl, hin, hout, indexAfterRun_toNat s x, rfl, fun _ => rfl⟩

end Sys2Proof.Machine
end

section
/-! The random byte, the timer registers, the keypad skips and the key wait (43_random_timer_keypad.md R170 to R177). -/

namespace Sys2Proof.Machine

open Sys2Proof

/-! ### The key wait (R177): an equation for each outcome of its two phases -/

section
variable {s : State} (x : Reg)

theorem exec_ldXK_of_no_key (hidle : s.kw.phase = .idle) (hscan : s.firstPressed = none) :
    exec (.ldXK x) s = .next s := by
  have hscan' : s.advance.firstPressed = none := hscan
  simp [exec, execLdXK, State.waitKey, hidle, hscan']

theorem exec_ldXK_of_pressed {k : Key} (hidle : s.kw.phase = .idle) (hscan : s.firstPressed = some k) :
    exec (.ldXK x) s = .next ((s.setV x (BitVec.ofNat 8 k.val)).setKw .waitRelease k) := by
  have hscan' : s.advance.firstPressed = some k := hscan
  have hwait : s.advance.waitKey x = ((s.setV x (BitVec.ofNat 8 k.val)).setKw .waitRelease k).advance.refetch := by
    simp only [State.waitKey, State.advance_kw, hidle, hscan']
    rfl
  exact congrArg Host.Outcome.next (hwait.trans (State.refetch_advance _))

theorem exec_ldXK_of_held (hwait : s.kw.phase = .waitRelease) (hheld : s.key[s.kw.key] = true) :
    exec (.ldXK x) s = .next s := by
  simp [exec, execLdXK, State.waitKey, hwait, hheld]

theorem exec_ldXK_of_released (hwait : s.kw.phase = .waitRelease) (hup : s.key[s.kw.key] = false) :
    exec (.ldXK x) s = .next (s.advance.setKw .idle 0) := by
  simp [exec, execLdXK, State.waitKey, hwait, hup]

end

theorem keyByte_toNat (k : Key) : (BitVec.ofNat 8 k.val).toNat = k.val :=
  (BitVec.toNat_ofNat k.val 8).trans (Nat.mod_eq_of_lt (by omega))

/-- Settles O38: in phase IDLE the outcome is the scan's, which finds no key or the least pressed one; a key's number fits VX. -/
theorem keyWaitScansForAPress : Obligations.KeyWaitScansForAPress := by
  refine fun x s hidle => ⟨fun hnone => ?_, fun k hk hleast => ?_⟩
  · exact exec_ldXK_of_no_key x hidle (firstPressed_none s hnone)
  · have hreg : (((s.setV x (BitVec.ofNat 8 k.val)).setKw .waitRelease k).getV x).toNat = k.val := by
      rw [State.getV_setKw, State.getV_setV_same, keyByte_toNat]
    exact ⟨_, exec_ldXK_of_pressed x hidle (firstPressed_some s k hk hleast), hreg, rfl, rfl,
      fun _ hr => State.getV_setV_of_ne _ _ (List.ne_of_not_mem_cons hr), rfl, fun _ => rfl⟩

/-- Settles O39: in phase WAIT_RELEASE the outcome rests on the latched key alone. -/
theorem keyWaitEndsOnRelease : Obligations.KeyWaitEndsOnRelease := fun x _ hwait =>
  ⟨exec_ldXK_of_held x hwait, exec_ldXK_of_released x hwait⟩

/-! ### The random byte -/

/-- Settles O35: the one register write is VX, and the mask 0 leaves no bit of the draw. -/
theorem randomByteUnderMask : Obligations.RandomByteUnderMask := by
  intro x nn s
  have hreg : (s.advance.takeDraw.setV x (s.nextDraw &&& nn)).getV x = s.nextDraw &&& nn := State.getV_setV_same _ _ _
  exact ⟨_, rfl, hreg, fun hnn => by rw [hreg, hnn, BitVec.and_zero], rfl, rfl,
    fun _ hr => State.getV_setV_of_ne s.advance.takeDraw _ (List.ne_of_not_mem_cons hr), rfl, fun _ => rfl⟩

/-! ### The timer registers -/

theorem gate_eq_decide (s : State) : s.gate = decide (s.st.toNat ≠ 0) := byte_bne_eq_decide s.st 0#8

/-- Settles O36: each of the three writes one byte beside the PC, and GATE reads the ST that FX18 leaves. -/
theorem timerRegisterInstructions : Obligations.TimerRegisterInstructions := by
  refine fun x s => ⟨?_, ?_, ?_⟩
  · exact ⟨_, rfl, State.getV_setV_same _ _ _, rfl, changesOnlyRegs_setV s x s.dt⟩
  · exact ⟨_, rfl, rfl, rfl, rfl, fun _ => rfl⟩
  · exact ⟨_, rfl, rfl, gate_eq_decide { s.advance with st := s.getV x }, rfl, rfl, fun _ => rfl⟩

/-! ### The keypad skips -/

/-- R174: a value below 16 is the number of a key, whose state decides; any other value names none (D24). -/
theorem pressed_eq {s : State} {v : Byte} {down : Bool} (hkey : ∀ k : Key, v.toNat = k.val → s.key[k] = down)
    (hnone : 16 ≤ v.toNat → down = false) : s.pressed v = down := by
  rcases Nat.lt_or_ge v.toNat 16 with hlt | hge
  · exact (pressed_key s v hlt).trans (hkey ⟨v.toNat, hlt⟩ rfl)
  · exact (pressed_large s v hge).trans (hnone hge).symm

/-- Settles O37: SKP is the skip on the key's state and SKNP the skip on its negation. -/
theorem skipsOnKeys : Obligations.SkipsOnKeys := by
  intro x s down hkey hnone
  have hskp : exec (.skp x) s = .next (s.advance.skipIf down) := by
    rw [← pressed_eq hkey hnone]; rfl
  have hsknp : exec (.sknp x) s = .next (s.advance.skipIf !down) := by
    rw [← pressed_eq hkey hnone]; rfl
  refine ⟨⟨_, hskp, skipIf_advance_pc_toNat s down, changesOnlyRegs_skip s down⟩,
    _, hsknp, (skipIf_advance_pc_toNat s !down).trans ?_, changesOnlyRegs_skip s !down⟩
  cases down
  · rfl
  · rfl

end Sys2Proof.Machine
end

section
/-! Display: clear screen, the sprite draw cell by cell, and the change record that a present hands out (44_display.md). -/

namespace Sys2Proof.Machine

open Sys2Proof

/-! ### Clear screen and the change record -/

/-- Settles O40: CLS is one assignment, and the clear grid has no cell on. -/
theorem clearScreen : Obligations.ClearScreen :=
  ⟨decode_of_encode rfl, fun _ => ⟨_, rfl, Grid.cell_clear, rfl, rfl, rfl, rfl, fun _ => rfl⟩⟩

/-- Settles O44, by the law of the change record. -/
theorem hasChangesReadsTheRecord : Obligations.HasChangesReadsTheRecord := Dirty.hasChanges_iff

/-! ### The present phase -/

theorem present_of_unchanged {s : State} (h : s.dirty.hasChanges = false) : present s = s := by
  simp [present, h]

theorem present_of_changed {s : State} (h : s.dirty.hasChanges = true) :
    present s = { s with
      dirty := ⟨false, Grid.clear⟩, renders := s.renders ++ [⟨s.dirty.regions s.renders.length, s.fb⟩] } := by
  simp [present, takeChanges, h]

theorem regions_of_whole {d : Dirty} (n : Nat) (h : d.whole = true) : d.regions n = [⟨0, 0, 64, 32⟩] := by
  simp [Dirty.regions, h]

theorem regions_of_not_whole {d : Dirty} (n : Nat) (h : d.whole = false) : d.regions n = regionCover n d.cells := by
  simp [Dirty.regions, h]

/-- R199: one rectangle covers the whole grid; without it REGION_COVER covers each changed cell. -/
theorem regions_cover_cell {d : Dirty} (n : Nat) {x y : Nat} (hx : x < 64) (hy : y < 32)
    (h : d.whole = true ∨ d.cells.cell x y = true) : ∃ r ∈ d.regions n, r.covers x y = true := by
  cases hw : d.whole with
  | true => simp [regions_of_whole n hw, Region.covers, hx, hy]
  | false =>
    obtain ⟨-, hcover, -⟩ := regionCover_spec n d.cells
    rw [regions_of_not_whole n hw]
    exact hcover x y hx hy (h.resolve_left (by simp [hw]))

/-- Settles O50: the present's two outcomes, and what a region list of takeChanges() is. -/
theorem presentHandsOutTheChanges : Obligations.PresentHandsOutTheChanges := by
  intro s hh ha hp
  refine ⟨fun hd => ?_, fun hd => ⟨s.dirty.regions s.renders.length, ?_, regions_of_whole _, ?_, ?_⟩⟩
  · rw [step_present hh ha hp, present_of_unchanged (s := s.takeTurn) hd]
    rfl
  · rw [step_present hh ha hp, present_of_changed (s := s.takeTurn) hd]
    rfl
  · exact (Dirty.regions_cover _ hd).2
  · exact fun _ _ => regions_cover_cell _

/-! ### The draw's next state -/

/-- The sprite's bytes are in the address space (R193): no row is read, or the last one is below 4096. -/
def SpriteFits (s : State) (n : Nibble) : Prop := s.spriteRows n = 0 ∨ s.index.toNat + s.spriteRows n ≤ memSize

/-- The bytes of the sprite that DXYN reads (R193). -/
def State.spriteBytes (s : State) (n : Nibble) : List Byte :=
  (List.range (s.spriteRows n)).map fun k => Memory.read s.mem (s.index.toNat + k)

/-- The state that a completed DXYN leaves (R193). -/
def State.drawn (s : State) (x y : Reg) (n : Nibble) : State :=
  s.advance.drawSprite (spriteColumn (s.getV x)) (spriteRow (s.getV y)) (s.spriteBytes n)

section
variable {s t : State} {x y : Reg} {n : Nibble}

theorem exec_drw_of_fits (h : SpriteFits s n) : exec (.drw x y n) s = .next (s.drawn x y n) := by
  show execDrw x y n s = _
  rw [execDrw, readRun_ok s.mem _ _ h]
  rfl

/-- A draw that leaves the machine running has read its whole sprite. -/
theorem spriteFits_of_exec_drw (h : exec (.drw x y n) s = .next t) (ht : t.halted = false) : SpriteFits s n := by
  rcases readRun_cases s.mem s.index.toNat (s.spriteRows n) with ⟨hfits, -⟩ | ⟨-, hrun⟩
  · exact hfits
  · obtain ⟨u, hu, hfault⟩ := faultedBy_of_run_error (i := .drw x y n) (s := s)
      (f := s.advance.drawSprite (spriteColumn (s.getV x)) (spriteRow (s.getV y))) hrun
    cases hu.symm.trans h
    rw [hfault] at ht
    cases ht

theorem eq_drawn_of_exec_drw (h : exec (.drw x y n) s = .next t) (ht : t.halted = false) : t = s.drawn x y n :=
  Host.Outcome.next.inj (h.symm.trans (exec_drw_of_fits (spriteFits_of_exec_drw h ht)))

theorem getV_drawn (r : Reg) (hr : r ≠ 15) : (s.drawn x y n).getV r = s.getV r :=
  State.getV_drawSprite _ _ _ _ _ hr

end

/-! ### The draw cell by cell -/

theorem spriteTarget_eq_iff (wrap : Bool) (a b px py : Nat) :
    spriteTarget wrap (a, b) = (px, py) ↔ if wrap then a % 64 = px ∧ b % 32 = py else a = px ∧ b = py := by
  cases wrap <;> simp [spriteTarget]

theorem spriteBytes_length (s : State) (n : Nibble) : (s.spriteBytes n).length = s.spriteRows n := by
  simp [State.spriteBytes]

theorem spriteBytes_length_le (s : State) (n : Nibble) : (s.spriteBytes n).length ≤ 32 := by
  have := n.isLt
  rw [spriteBytes_length, State.spriteRows]
  split <;> omega

/-- The sprite's footprint is the set of cells that the draw plots (R191, R193, R194). -/
theorem mem_spriteTargets_iff (s : State) (vx vy : Byte) (n : Nibble) (px py : Nat) :
    (px, py) ∈ (spriteBits (spriteColumn vx) (spriteRow vy) (s.spriteBytes n)).map (spriteTarget s.qcfg.spriteWrap) ↔
      SpriteHits s vx vy n px py := by
  simp only [List.mem_map, mem_spriteBits]
  constructor
  · rintro ⟨p, ⟨r, c, hr, hc, hbit, rfl⟩, htarget⟩
    refine ⟨r, c, by rwa [spriteBytes_length] at hr, hc, ?_, (spriteTarget_eq_iff _ _ _ _ _).mp htarget⟩
    simpa [State.spriteBytes, spriteBit] using hbit
  · rintro ⟨r, c, hr, hc, hbit, htarget⟩
    refine ⟨_, ⟨r, c, by rwa [spriteBytes_length], hc, ?_, rfl⟩, (spriteTarget_eq_iff _ _ _ _ _).mpr htarget⟩
    simpa [State.spriteBytes, spriteBit] using hbit

section
variable {s : State} {x y : Reg} {n : Nibble} {px py : Nat}

theorem drawn_fb_of_hit (hx : px < 64) (hy : py < 32) (h : SpriteHits s (s.getV x) (s.getV y) n px py) :
    (s.drawn x y n).fb.cell px py = !s.fb.cell px py := by
  rw [← mem_spriteTargets_iff] at h
  exact (drawSprite_fb s.advance _ _ _ (spriteBytes_length_le s n) px py).trans (if_pos ⟨hx, hy, h⟩)

theorem drawn_fb_of_not_hit (h : ¬ SpriteHits s (s.getV x) (s.getV y) n px py) :
    (s.drawn x y n).fb.cell px py = s.fb.cell px py := by
  rw [← mem_spriteTargets_iff] at h
  exact (drawSprite_fb s.advance _ _ _ (spriteBytes_length_le s n) px py).trans (if_neg fun k => h k.2.2)

theorem drawn_cells_of_hit (hx : px < 64) (hy : py < 32) (h : SpriteHits s (s.getV x) (s.getV y) n px py) :
    (s.drawn x y n).dirty.cells.cell px py = true := by
  rw [← mem_spriteTargets_iff] at h
  refine ((drawSprite_dirty s.advance _ _ (s.spriteBytes n)).2 px py).trans ?_
  rw [decide_eq_true ⟨hx, hy, h⟩, Bool.or_true]

theorem drawn_cells_of_not_hit (h : ¬ SpriteHits s (s.getV x) (s.getV y) n px py) :
    (s.drawn x y n).dirty.cells.cell px py = s.dirty.cells.cell px py := by
  rw [← mem_spriteTargets_iff] at h
  refine ((drawSprite_dirty s.advance _ _ (s.spriteBytes n)).2 px py).trans ?_
  rw [decide_eq_false fun k => h k.2.2, Bool.or_false]
  rfl

/-! ### The collision flag (R195) -/

theorem lt_of_cell {g : Grid} (h : g.cell px py = true) : px < 64 ∧ py < 32 := by
  by_contra hout
  rw [Grid.cell_outside _ _ _ hout] at h
  cases h

/-- Some set bit of the sprite lands on a cell that is on. -/
def Collides (s : State) (x y : Reg) (n : Nibble) : Prop :=
  ∃ px py : Nat, px < 64 ∧ py < 32 ∧ SpriteHits s (s.getV x) (s.getV y) n px py ∧ s.fb.cell px py = true

/-- VF after a draw is the flag byte of a test for a collision. -/
theorem drawn_flag (s : State) (x y : Reg) (n : Nibble) :
    ∃ hit : Bool, (s.drawn x y n).getV 15 = flagByte hit ∧ (hit = true ↔ Collides s x y n) := by
  refine ⟨_, drawSprite_flag s.advance _ _ _ (spriteBytes_length_le s n), ?_⟩
  rw [List.any_eq_true]
  constructor
  · rintro ⟨⟨px, py⟩, hmem, hon⟩
    obtain ⟨hx, hy⟩ := lt_of_cell hon
    exact ⟨px, py, hx, hy, (mem_spriteTargets_iff _ _ _ _ _ _).mp hmem, hon⟩
  · rintro ⟨px, py, -, -, hhit, hon⟩
    exact ⟨(px, py), (mem_spriteTargets_iff _ _ _ _ _ _).mpr hhit, hon⟩

theorem drawn_flag_eq_one_iff : (s.drawn x y n).getV 15 = 1#8 ↔ Collides s x y n := by
  obtain ⟨hit, hflag, hiff⟩ := drawn_flag s x y n
  rw [hflag, ← hiff]
  cases hit <;> decide

theorem drawn_flag_eq_zero_iff : (s.drawn x y n).getV 15 = 0#8 ↔ ¬ Collides s x y n := by
  obtain ⟨hit, hflag, hiff⟩ := drawn_flag s x y n
  rw [hflag, ← hiff]
  cases hit <;> decide

/-- A draw turns a cell off exactly where a set bit lands on a cell that is on. -/
theorem drawn_goes_off_iff :
    (s.fb.cell px py = true ∧ (s.drawn x y n).fb.cell px py = false) ↔
      px < 64 ∧ py < 32 ∧ SpriteHits s (s.getV x) (s.getV y) n px py ∧ s.fb.cell px py = true := by
  constructor
  · rintro ⟨hon, hoff⟩
    obtain ⟨hx, hy⟩ := lt_of_cell hon
    refine ⟨hx, hy, ?_, hon⟩
    by_contra hmiss
    rw [drawn_fb_of_not_hit hmiss, hon] at hoff
    cases hoff
  · rintro ⟨hx, hy, hhit, hon⟩
    exact ⟨hon, by rw [drawn_fb_of_hit hx hy hhit, hon, Bool.not_true]⟩

theorem collides_iff_goes_off :
    Collides s x y n ↔ ∃ px py : Nat, s.fb.cell px py = true ∧ (s.drawn x y n).fb.cell px py = false :=
  exists_congr fun _ => exists_congr fun _ => drawn_goes_off_iff.symm

end

/-- Settles O41: a sprite that fits is drawn, each cell is flipped once or not at all, and VF is the only register written. -/
theorem drawFlipsTheSpriteCells : Obligations.DrawFlipsTheSpriteCells := by
  rintro x y n s rows rfl hfits
  refine ⟨s.drawn x y n, exec_drw_of_fits hfits, State.drawSprite_pc _ _ _ _, fun px py hx hy => ⟨fun hhit => ?_,
    fun hmiss => ?_⟩, drawn_flag_eq_one_iff.mpr, drawn_flag_eq_zero_iff.mpr, rfl, fun r hr => ?_, rfl, fun _ => rfl⟩
  · exact ⟨drawn_fb_of_hit hx hy hhit, drawn_cells_of_hit hx hy hhit⟩
  · exact ⟨drawn_fb_of_not_hit hmiss, drawn_cells_of_not_hit hmiss⟩
  · exact getV_drawn r (List.ne_of_not_mem_cons hr)

/-- Settles O42: a cell goes off exactly where the draw collides. -/
theorem collisionMeansACellWentOff : Obligations.CollisionMeansACellWentOff := by
  intro x y n s t h _ ht
  obtain rfl := eq_drawn_of_exec_drw h ht
  rw [← collides_iff_goes_off]
  exact ⟨drawn_flag_eq_one_iff, drawn_flag_eq_zero_iff⟩

/-! ### The same draw twice -/

/-- The footprint rests on memory, I and the quirks alone. -/
theorem spriteHits_congr {s u : State} (hmem : u.mem = s.mem) (hindex : u.index = s.index) (hqcfg : u.qcfg = s.qcfg)
    (vx vy : Byte) (n : Nibble) (px py : Nat) : SpriteHits u vx vy n px py ↔ SpriteHits s vx vy n px py := by
  rw [SpriteHits, SpriteHits, hmem, hindex, hqcfg]

theorem spriteFits_congr {s u : State} (hindex : u.index = s.index) (hqcfg : u.qcfg = s.qcfg) (n : Nibble) :
    SpriteFits u n ↔ SpriteFits s n := by
  rw [SpriteFits, SpriteFits, State.spriteRows, State.spriteRows, hindex, hqcfg]

/-- Settles O43: with VX and VY kept the second draw has the first one's footprint, and flips each of its cells back. -/
theorem drawTwiceErases : Obligations.DrawTwiceErases := by
  intro x y n s t u r hx hy _ h ht hu h'
  obtain rfl := eq_drawn_of_exec_drw h ht
  have hmem : u.mem = s.mem := by rw [hu]; rfl
  have hindex : u.index = s.index := by rw [hu]; rfl
  have hqcfg : u.qcfg = s.qcfg := by rw [hu]; rfl
  have hfb : u.fb = (s.drawn x y n).fb := by rw [hu]
  have hvx : u.getV x = s.getV x := by rw [hu]; exact getV_drawn x hx
  have hvy : u.getV y = s.getV y := by rw [hu]; exact getV_drawn y hy
  have hfits : SpriteFits u n := (spriteFits_congr hindex hqcfg n).mpr (spriteFits_of_exec_drw h ht)
  cases (exec_drw_of_fits hfits).symm.trans h'
  refine Grid.ext_cell fun px py hpx hpy => ?_
  have same : SpriteHits u (u.getV x) (u.getV y) n px py ↔ SpriteHits s (s.getV x) (s.getV y) n px py := by
    rw [hvx, hvy]
    exact spriteHits_congr hmem hindex hqcfg _ _ n px py
  by_cases hhit : SpriteHits s (s.getV x) (s.getV y) n px py
  · rw [drawn_fb_of_hit hpx hpy (same.mpr hhit), hfb, drawn_fb_of_hit hpx hpy hhit, Bool.not_not]
  · rw [drawn_fb_of_not_hit (mt same.mp hhit), hfb, drawn_fb_of_not_hit hhit]

end Sys2Proof.Machine
end

section
/-! Fatal faults: what one leaves of the state, and which instructions raise which (60_exceptions.md R210 to R212). -/

namespace Sys2Proof.Machine

open Sys2Proof

variable {s t : State} {i : Instr}

/-- An instruction that halts a running machine has faulted: a completed one leaves HALTED alone. -/
theorem faults_of_halts (hs : s.halted = false) (h : exec i s = .next t) (ht : t.halted = true) : Faults i s t := by
  rcases exec_cases h with hfault | hc
  · exact hfault
  · rw [hc.sameControl.halted, hs] at ht
    cases ht

/-- Settles O11: halting means faulting, and a fault is one assignment to FAULT and HALTED on the state before the fetch. -/
theorem faultKeepsTheStateBefore : Obligations.FaultKeepsTheStateBefore := by
  intro i s t hs h ht
  obtain ⟨-, r, -, rfl⟩ := faults_of_halts hs h ht
  exact ⟨r.kind, r.info, rfl⟩

/-! ### The address fault's record -/

/-- A run of reads or writes that, where it raises, raises the address fault with an address outside memory (R215). -/
def RaisesOutside {α : Type} (run : Except Raise α) : Prop :=
  ∀ r, run = .error r → r.kind = .addressOutOfRange ∧ memSize ≤ r.info

theorem raisesOutside_readRun (m : Memory) (a n : Nat) : RaisesOutside (readRun m a n) := by
  intro r hr
  rcases readRun_cases m a n with ⟨-, e⟩ | ⟨-, e⟩
  · cases e.symm.trans hr
  · cases e.symm.trans hr
    exact ⟨rfl, le_max_right a memSize⟩

theorem raisesOutside_writeRun (m : Memory) (a : Nat) (bytes : List Byte) : RaisesOutside (writeRun m a bytes) := by
  intro r hr
  rcases writeRun_cases m a bytes with ⟨m', e, -⟩ | e
  · cases e.symm.trans hr
  · cases e.symm.trans hr
    exact ⟨rfl, le_max_right a memSize⟩

/-- Where such a run ends a running machine, FAULT records an address outside memory, with the code 2. -/
theorem addressFault_of_halts {α : Type} {run : Except Raise α} {f : α → State}
    (h : conclude i s (run.map f) = .next t) (hs : s.halted = false) (ht : t.halted = true)
    (hrun : RaisesOutside run) (hf : ∀ a, (f a).halted = s.halted) :
    (∃ a, 4096 ≤ a ∧ t.fault = some ⟨.addressOutOfRange, s.pc, some (encode i), a⟩) ∧
      t.fault.map (·.code) = some 2 := by
  rcases conclude_map_cases h with ⟨a, -, rfl⟩ | ⟨⟨kind, info⟩, hr, rfl⟩
  · rw [hf, hs] at ht
    cases ht
  · obtain ⟨rfl, hinfo⟩ : kind = .addressOutOfRange ∧ memSize ≤ info := hrun _ hr
    exact ⟨⟨info, hinfo, rfl⟩, rfl⟩

/-- Settles O12: RET and CALL fault at the ends of the stack, four instructions by a run that leaves the address space, and
`MayRaise` excludes the rest. -/
theorem onlyListedInstructionsFault : Obligations.OnlyListedInstructionsFault := by
  intro i s t hs h ht
  obtain ⟨hraise, -⟩ := faults_of_halts hs h ht
  cases i
  case ret =>
    rcases Nat.eq_zero_or_pos s.sp.val with hsp | hsp
    · cases (exec_ret_of_empty hsp).symm.trans h
      exact ⟨hsp, rfl, rfl⟩
    · cases (exec_ret_of_pos hsp).symm.trans h
      cases hs.symm.trans ht
  case call nnn =>
    rcases Nat.lt_or_ge s.sp.val 16 with hsp | hsp
    · cases (exec_call_of_room nnn hsp).symm.trans h
      cases hs.symm.trans ht
    · have hfull : s.sp.val = 16 := by omega
      cases (exec_call_of_full nnn hfull).symm.trans h
      exact ⟨hfull, rfl, rfl⟩
  case ldBX | ldMemX =>
    exact addressFault_of_halts h hs ht (raisesOutside_writeRun _ _ _) fun _ => rfl
  case ldXMem | drw =>
    exact addressFault_of_halts h hs ht (raisesOutside_readRun _ _ _) fun _ => rfl
  all_goals exact hraise

end Sys2Proof.Machine
end

section
/-! The CPU beside the other agents (60_exceptions.md R222): the timers, the frame's phase and the schedule are invisible to every
instruction but the three that name a timer. -/

namespace Sys2Proof.Machine

open Sys2Proof

variable {s t : State} {i : Instr}

/-- The instructions that read or write a timer (43_random_timer_keypad.md R171 to R173). -/
def UsesTimers (i : Instr) : Prop :=
  match i with
  | .ldXDt _ | .ldDtX _ | .ldStX _ => True
  | _ => False

/-- The state with what the Timer and the Cycle Driver keep exchanged: DT, ST, the frame's phase and the schedule. -/
def State.withTiming (s : State) (dt st : Byte) (p : Phase) (q : Schedule) : State :=
  { s with dt := dt, st := st, phase := p, turns := q }

section
variable {dt st : Byte} {p : Phase} {q : Schedule} {u u' : State}

theorem skipIf_withTiming {c : Bool} (hu : u' = u.withTiming dt st p q) :
    u'.skipIf c = (u.skipIf c).withTiming dt st p q := by
  subst hu
  cases c <;> rfl

theorem setFlagIf_withTiming {c : Bool} {b : Byte} (hu : u' = u.withTiming dt st p q) :
    u'.setFlagIf c b = (u.setFlagIf c b).withTiming dt st p q := by
  subst hu
  cases c <;> rfl

/-- A run of reads or writes that does not see the timing ends the same with another one. -/
theorem conclude_map_withTiming {α : Type} {run : Except Raise α} {f f' : α → State}
    (hf : ∀ a, f' a = (f a).withTiming dt st p q) (h : conclude i s (run.map f) = .next t) :
    conclude i (s.withTiming dt st p q) (run.map f') = .next (t.withTiming dt st p q) := by
  rcases conclude_map_cases h with ⟨a, rfl, rfl⟩ | ⟨r, rfl, rfl⟩
  · exact congrArg Host.Outcome.next (hf a)
  · rfl

/-- The key wait reads KW and KEY alone. -/
theorem exec_ldXK_withTiming {x : Reg} (h : exec (.ldXK x) s = .next t) :
    exec (.ldXK x) (s.withTiming dt st p q) = .next (t.withTiming dt st p q) := by
  cases hp : s.kw.phase with
  | idle =>
    cases hf : s.firstPressed with
    | none =>
      cases (exec_ldXK_of_no_key x hp hf).symm.trans h
      exact exec_ldXK_of_no_key (s := s.withTiming dt st p q) x hp hf
    | some k =>
      cases (exec_ldXK_of_pressed x hp hf).symm.trans h
      exact exec_ldXK_of_pressed (s := s.withTiming dt st p q) x hp hf
  | waitRelease =>
    cases hk : s.key[s.kw.key] with
    | true =>
      cases (exec_ldXK_of_held x hp hk).symm.trans h
      exact exec_ldXK_of_held (s := s.withTiming dt st p q) x hp hk
    | false =>
      cases (exec_ldXK_of_released x hp hk).symm.trans h
      exact exec_ldXK_of_released (s := s.withTiming dt st p q) x hp hk

/-- Exchanging the timing before or after an instruction that uses no timer is the same. -/
theorem exec_withTiming (hi : ¬ UsesTimers i) (h : exec i s = .next t) :
    exec i (s.withTiming dt st p q) = .next (t.withTiming dt st p q) := by
  cases i
  case ldXDt | ldDtX | ldStX => exact absurd trivial hi
  case ret =>
    rcases Nat.eq_zero_or_pos s.sp.val with hsp | hsp
    · cases (exec_ret_of_empty hsp).symm.trans h
      exact exec_ret_of_empty (s := s.withTiming dt st p q) hsp
    · cases (exec_ret_of_pos hsp).symm.trans h
      exact exec_ret_of_pos (s := s.withTiming dt st p q) hsp
  case call nnn =>
    rcases Nat.lt_or_ge s.sp.val 16 with hsp | hsp
    · cases (exec_call_of_room nnn hsp).symm.trans h
      exact exec_call_of_room (s := s.withTiming dt st p q) nnn hsp
    · have hfull : s.sp.val = 16 := by omega
      cases (exec_call_of_full nnn hfull).symm.trans h
      exact exec_call_of_full (s := s.withTiming dt st p q) nnn hfull
  case ldBX | ldMemX | ldXMem | drw => exact conclude_map_withTiming (fun _ => rfl) h
  case ldXK => exact exec_ldXK_withTiming h
  case seImm | sneImm | seReg | sneReg | skp | sknp =>
    cases h; exact congrArg Host.Outcome.next (skipIf_withTiming rfl)
  case or | and | xor | addIX => cases h; exact congrArg Host.Outcome.next (setFlagIf_withTiming rfl)
  all_goals cases h; rfl

end

/-- An instruction leaves the frame's phase and the schedule alone, faulting or not. -/
theorem exec_phase_turns (h : exec i s = .next t) : t.phase = s.phase ∧ t.turns = s.turns := by
  rcases exec_cases h with ⟨-, r, -, rfl⟩ | hc
  · exact ⟨rfl, rfl⟩
  · exact ⟨hc.sameControl.phase, hc.sameControl.turns⟩

/-- An instruction that uses no timer leaves both alone. -/
theorem exec_timers (hi : ¬ UsesTimers i) (h : exec i s = .next t) : t.dt = s.dt ∧ t.st = s.st := by
  rcases exec_cases h with ⟨-, r, -, rfl⟩ | hc
  · exact ⟨rfl, rfl⟩
  · have writes := hc.writesAsListed
    refine ⟨writes.dt.resolve_right ?_, writes.st.resolve_right ?_⟩
    · rintro ⟨x, rfl⟩; exact hi trivial
    · rintro ⟨x, rfl⟩; exact hi trivial

theorem tick_eq_withTiming (s : State) :
    tick s = s.withTiming (countDown s.dt) (countDown s.st) s.phase s.turns := rfl

/-- Settles O46: a tick exchanges the timers for values that rest on them alone, and the instruction keeps both. -/
theorem tickCommutesWithOtherInstructions : Obligations.TickCommutesWithOtherInstructions := by
  intro i s t hi h
  have hfree : ¬ UsesTimers i := by
    intro hu
    cases i
    case ldXDt x => exact (hi x).1 rfl
    case ldDtX x => exact (hi x).2.1 rfl
    case ldStX x => exact (hi x).2.2 rfl
    all_goals exact hu
  obtain ⟨hphase, hturns⟩ := exec_phase_turns h
  obtain ⟨hdt, hst⟩ := exec_timers hfree h
  rw [tick_eq_withTiming s, tick_eq_withTiming t, hdt, hst, hphase, hturns]
  exact exec_withTiming hfree h

end Sys2Proof.Machine
end

section
/-! Fairness (60_exceptions.md R220, 70_reset_and_hazards.md R246): from every point of the schedule each agent's turn comes. -/

namespace Sys2Proof.Machine

open Sys2Proof

variable {s t : State}

/-! ### Every step takes one turn -/

theorem cpuStep_turns (h : cpuStep s = .next t) : t.turns = s.turns := by
  rcases cpuStep_cases s with ⟨r, -, e⟩ | ⟨w, u, -, -, e⟩ | ⟨w, i, -, -, e⟩
  · cases e.symm.trans h
    rfl
  · cases e.symm.trans h
    rfl
  · exact (exec_phase_turns (e.symm.trans h)).2

@[simp] theorem present_turns (s : State) : (present s).turns = s.turns := by
  rw [present_frame]

theorem step_turns (h : step s = .next t) : t.turns = s.turns.advance := by
  rcases step_cases s with ⟨-, e⟩ | ⟨-, ⟨-, e⟩ | ⟨-, -, e⟩ | ⟨n, -, -, e⟩ | ⟨-, -, e⟩⟩
  · cases e.symm.trans h
  · cases e.symm.trans h
    rfl
  · cases e.symm.trans h
    rfl
  · exact cpuStep_turns (e.symm.trans h)
  · cases e.symm.trans h
    exact present_turns _

/-! ### Runs -/

theorem run_succ {M : Host.Core} {s u : M.State} (k : Nat) (h : M.step s = .next u) : M.run (k + 1) s = M.run k u := by
  rw [Host.Core.run, h]

/-- A run that goes on for a step has taken its first one. -/
theorem exists_step_of_run_succ {M : Host.Core} {s t : M.State} {k : Nat} (h : M.run (k + 1) s = .next t) :
    ∃ u, M.step s = .next u ∧ M.run k u = .next t := by
  rw [Host.Core.run] at h
  split at h
  next u hu => exact ⟨u, hu, h⟩
  next => cases h
  next => cases h

theorem run_turns {k : Nat} (h : Host.Core.run Sys2Proof.core k s = .next t) :
    t.turns = Schedule.advance^[k] s.turns := by
  induction k generalizing s with
  | zero => cases h; rfl
  | succ k ih =>
    obtain ⟨u, hu, hrun⟩ := exists_step_of_run_succ h
    rw [ih hrun, step_turns hu, Function.iterate_succ_apply]

/-! ### The schedule's turns -/

theorem Schedule.iterate_advance_fixed (l : List Agent) (n k : Nat) :
    Schedule.advance^[l.length] ⟨l, n, k⟩ = ⟨[], n, k⟩ := by
  induction l with
  | nil => rfl
  | cons a l ih => exact ih

/-- Before the last turn of a free round each turn taken is counted. -/
theorem Schedule.iterate_advance_free {n k j : Nat}
    (h : k + j ≤ Config.leadTicks n + (Config.extraDriverTurns n + 1)) :
    Schedule.advance^[j] ⟨[], n, k⟩ = ⟨[], n, k + j⟩ := by
  induction j with
  | zero => rfl
  | succ j ih =>
    rw [Function.iterate_succ_apply', ih (by omega)]
    exact if_pos (show k + j < _ from h)

/-- In the free rounds either agent's turn comes in the round in hand, or after its last tick and the next one's leading ticks. -/
theorem Schedule.exists_turn_free (n k : Nat) (a : Agent) :
    ∃ j ≤ Config.leadTicks n + (Config.extraDriverTurns n + 1) + 1 + Config.leadTicks (n + 1),
      (Schedule.advance^[j] ⟨[], n, k⟩).next = a := by
  rcases Nat.lt_or_ge k (Config.leadTicks n) with hlead | hlead
  · cases a with
    | timer => exact ⟨0, Nat.zero_le _, (free_lead hlead).1⟩
    | driver =>
      refine ⟨Config.leadTicks n - k, by omega, ?_⟩
      rw [iterate_advance_free (by omega)]
      exact (free_driver (by omega) (by omega)).1
  · rcases Nat.lt_or_ge k (Config.leadTicks n + (Config.extraDriverTurns n + 1)) with hlast | hlast
    · cases a with
      | timer =>
        refine ⟨Config.leadTicks n + (Config.extraDriverTurns n + 1) - k, by omega, ?_⟩
        rw [iterate_advance_free (by omega)]
        exact (free_last (by omega)).1
      | driver => exact ⟨0, Nat.zero_le _, (free_driver hlead hlast).1⟩
    · obtain ⟨hnext, hadvance⟩ := free_last hlast
      cases a with
      | timer => exact ⟨0, Nat.zero_le _, hnext⟩
      | driver =>
        refine ⟨Config.leadTicks (n + 1) + 1, by omega, ?_⟩
        rw [Function.iterate_succ_apply, hadvance, iterate_advance_free (by omega)]
        exact (free_driver (by omega) (by omega)).1

/-- Settles O47: the turns already fixed run out, and then the free rounds give either agent its turn. -/
theorem ticksKeepComing : Obligations.TicksKeepComing := by
  intro s a
  obtain ⟨j, hj, hturn⟩ := Schedule.exists_turn_free s.turns.round s.turns.taken a
  refine ⟨j + s.turns.fixed.length, ?_, fun t ht => ?_⟩
  · simp only [Schedule.beforeLast]
    omega
  · rw [State.nextAgent, run_turns ht, Function.iterate_add_apply, Schedule.iterate_advance_fixed]
    exact hturn

end Sys2Proof.Machine
end

section
/-! The Timer's turn, the poll, and the end of a run (60_exceptions.md R219, R221, R224 to R228, R235). -/

namespace Sys2Proof.Machine

open Sys2Proof

variable {s : State}

/-! ### The Timer's turn -/

/-- R221: after a tick the gate is open where ST was above 1. -/
theorem gate_tick (s : State) : (tick s).gate = decide (1 < s.st.toNat) := by
  rw [gate_eq_decide, tick_st, countDown_toNat, decide_eq_decide]
  omega

/-- Settles O45: the step is the tick on the state whose turn is taken. -/
theorem tickCountsBothTimersDown : Obligations.TickCountsBothTimersDown := fun s ha =>
  ⟨step_halted, fun hh =>
    ⟨_, step_timer hh ha, countDown_toNat s.dt, countDown_toNat s.st, gate_tick s.takeTurn, rfl⟩⟩

/-! ### The poll -/

/-- The state that the poll step leaves (R224). -/
def State.polled (s : State) : State := { poll s.takeTurn with phase := (poll s.takeTurn).phaseAfterPoll }

theorem polled_halted (hh : s.halted = false) : s.polled.halted = s.nextReply.shutdown := by
  show (s.halted || s.nextReply.shutdown) = _
  rw [hh, Bool.false_or]

/-- R226: a paused machine executes nothing. -/
theorem polled_phase_of_paused (hp : s.polled.paused = true) : s.polled.phase = .present := by
  show Phase.afterBudget (if s.polled.paused then 0 else s.ipf) = _
  rw [hp]
  rfl

/-- R225: the first CPU step of the budget is next, and IPF - 1 more follow it. -/
theorem polled_phase_of_running (hp : s.polled.paused = false) (hipf : 1 ≤ s.ipf) :
    s.polled.phase = .execute (s.ipf - 1) := by
  obtain ⟨n, hn⟩ := Nat.exists_eq_add_of_le' hipf
  show Phase.afterBudget (if s.polled.paused then 0 else s.ipf) = _
  rw [hp, hn]
  rfl

/-- Settles O48: at a poll the step leaves `State.polled`, field by field. -/
theorem pollTakesTheReply : Obligations.PollTakesTheReply := fun _ hh ha hp =>
  ⟨_, step_poll hh ha hp, rfl, rfl, polled_halted hh, rfl, rfl, polled_phase_of_paused, polled_phase_of_running, rfl⟩

/-- Settles O49: the shutdown is in HALTED, which is all that stops a step; the poll writes no other state. -/
theorem shutdownHalts : Obligations.ShutdownHalts := by
  intro s hh ha hp hshutdown
  have hhalted : s.polled.halted = true := (polled_halted hh).trans hshutdown
  exact ⟨s.polled, step_poll hh ha hp, hhalted, step_halted hhalted, id, rfl⟩

/-! ### The end of a run -/

/-- The two bytes of 1NNN as R235 writes them make the word of the jump to NNN. -/
theorem encode_jp_eq_wordOfBytes {hi lo : Byte} {a : Addr} (hhi : hi.toNat = 0x10 ||| a.toNat >>> 8)
    (hlo : lo.toNat = a.toNat &&& 0xFF) : encode (.jp a) = wordOfBytes hi lo := by
  have ha := a.isLt
  have htop : 0x10 ||| a.toNat >>> 8 = 0x10 + a.toNat / 256 := by
    rw [Nat.shiftRight_eq_div_pow]
    exact (Nat.two_pow_add_eq_or_of_lt (i := 4) (by omega) 1).symm
  have hlow : a.toNat &&& 0xFF = a.toNat % 256 := Nat.and_two_pow_sub_one_eq_mod a.toNat 8
  apply BitVec.eq_of_toNat_eq
  rw [wordOfBytes_toNat, hhi, hlo, htop, hlow]
  refine (append_toNat 0x1#4 a).trans ?_
  simp only [BitVec.toNat_ofNat]
  omega

/-- Settles O58: the word at PC is the jump to PC, which sets PC to what it was. -/
theorem endedRunStaysEnded : Obligations.EndedRunStaysEnded := by
  intro s h
  simp only [State.ended, Bool.and_eq_true, decide_eq_true_eq] at h
  obtain ⟨⟨⟨-, hroom⟩, hhi⟩, hlo⟩ := h
  exact cpuStep_instr (fetch_ok s.mem s.pc hroom) (decode_of_encode (encode_jp_eq_wordOfBytes hhi hlo))

end Sys2Proof.Machine
end

section
/-! Frame() of 60_exceptions.md R224 is the machine's atomic steps: poll, the budget of CPU steps, present. -/

namespace Sys2Proof.Machine

open Sys2Proof

variable {s t : State} {n : Nat}

/-! ### A state at another point of the frame and of the schedule -/

/-- The state at another phase of the frame, with another schedule. -/
def State.atTurn (s : State) (p : Phase) (q : Schedule) : State := { s with phase := p, turns := q }

section
variable {p : Phase} {q : Schedule}

/-- No instruction reads the phase or the schedule; those that use a timer find it where it was. -/
theorem exec_atTurn {i : Instr} (h : exec i s = .next t) : exec i (s.atTurn p q) = .next (t.atTurn p q) := by
  by_cases hi : UsesTimers i
  · cases i
    case ldXDt | ldDtX | ldStX => cases h; rfl
    all_goals exact hi.elim
  · obtain ⟨hdt, hst⟩ := exec_timers hi h
    have htiming : t.atTurn p q = t.withTiming s.dt s.st p q := by
      rw [← hdt, ← hst]
      rfl
    exact htiming ▸ exec_withTiming hi h

theorem cpuStep_atTurn (h : cpuStep s = .next t) : cpuStep (s.atTurn p q) = .next (t.atTurn p q) := by
  rcases cpuStep_cases s with ⟨r, hf, e⟩ | ⟨w, u, hf, hd, e⟩ | ⟨w, i, hf, hd, e⟩
  · cases e.symm.trans h
    exact cpuStep_fetchFault (s := s.atTurn p q) hf
  · cases e.symm.trans h
    exact cpuStep_unrecognized (s := s.atTurn p q) hf hd
  · exact (cpuStep_instr (s := s.atTurn p q) hf hd).trans (exec_atTurn (e.symm.trans h))

theorem present_atTurn (s : State) : present (s.atTurn p q) = (present s).atTurn p q := by
  cases hd : s.dirty.hasChanges with
  | true => rw [present_of_changed hd, present_of_changed (s := s.atTurn p q) hd]; rfl
  | false => rw [present_of_unchanged hd, present_of_unchanged (s := s.atTurn p q) hd]

end

/-- The schedule with the driver's k turns next. -/
def Schedule.withDriver (q : Schedule) (k : Nat) (rest : List Agent) : Schedule :=
  { q with fixed := List.replicate k .driver ++ rest }

theorem step_execute_atTurn (q : Schedule) (k : Nat) (rest : List Agent) (hs : s.halted = false)
    (h : cpuStep s = .next t) : step (s.atTurn (.execute n) (q.withDriver (k + 1) rest)) =
      .next (t.atTurn (Phase.afterBudget n) (q.withDriver k rest)) :=
  (step_execute (s := s.atTurn _ (q.withDriver (k + 1) rest)) hs rfl rfl).trans (cpuStep_atTurn (s := s) h)

theorem step_present_atTurn (q : Schedule) (k : Nat) (rest : List Agent) (hs : s.halted = false) :
    step (s.atTurn .present (q.withDriver (k + 1) rest)) = .next ((present s).atTurn .poll (q.withDriver k rest)) := by
  refine (step_present (s := s.atTurn _ (q.withDriver (k + 1) rest)) hs rfl rfl).trans ?_
  show Host.Outcome.next { present (s.atTurn .present (q.withDriver k rest)) with phase := .poll } = _
  rw [present_atTurn]
  rfl

/-! ### What a frame that ends running has done -/

theorem executePhase_succ (h : executePhase (n + 1) s = .next t) (ht : t.halted = false) :
    s.halted = false ∧ ∃ u, cpuStep s = .next u ∧ executePhase n u = .next t := by
  rw [executePhase] at h
  split at h
  next hh =>
    cases h
    cases hh.symm.trans ht
  next hh =>
    obtain ⟨u, hu⟩ := cpuStep_next s
    rw [hu] at h
    exact ⟨Bool.eq_false_iff.mpr hh, u, hu, h⟩

/-- R224: the poll, the execute phase and the present have all been gone through. -/
theorem frame_running (hs : s.halted = false) (h : frame s = .next t) (ht : t.halted = false) :
    ∃ u, executePhase (if (poll s).paused then 0 else s.ipf) (poll s) = .next u ∧ u.halted = false ∧
      t = present u := by
  simp only [frame, hs, Bool.false_eq_true, if_false] at h
  split at h
  next hpoll =>
    cases h
    cases hpoll.symm.trans ht
  next =>
    split at h
    next u hu =>
      cases h
      cases huh : u.halted with
      | true => simp [huh] at ht
      | false => exact ⟨u, hu, huh, by simp⟩
    next => cases h
    next => cases h

/-! ### The refinement -/

/-- With the driver's turns next, n CPU steps and the present are the execute phase of R224 and the present after it. -/
theorem run_executePhase (q : Schedule) (rest : List Agent) (h : executePhase n s = .next t) (ht : t.halted = false) :
    Host.Core.run Sys2Proof.core (n + 1) (s.atTurn (Phase.afterBudget n) (q.withDriver (n + 1) rest)) =
      .next ((present t).atTurn .poll (q.withDriver 0 rest)) := by
  induction n generalizing s with
  | zero =>
    cases h
    exact run_succ (M := Sys2Proof.core) 0 (step_present_atTurn q 0 rest ht)
  | succ n ih =>
    obtain ⟨hs, u, hu, hrest⟩ := executePhase_succ h ht
    exact (run_succ (M := Sys2Proof.core) (n + 1) (step_execute_atTurn q (n + 1) rest hs hu)).trans (ih hrest)

/-- Settles O51: the poll step, then `run_executePhase` for the rest of the frame. -/
theorem frameIsItsAtomicSteps : Obligations.FrameIsItsAtomicSteps := by
  rintro s t k rest hs hp rfl hfixed h ht
  obtain ⟨u, hu, huh, rfl⟩ := frame_running hs h ht
  generalize hn : (if (poll s).paused then 0 else s.ipf) = n at hfixed hu ⊢
  have hnext : s.nextAgent = .driver := by
    rw [State.nextAgent, Schedule.next, hfixed]
    rfl
  have hadvance : s.turns.advance = s.turns.withDriver (n + 1) rest := by
    rw [Schedule.advance, hfixed]
    rfl
  have hstep : step s = .next ((poll s).atTurn (Phase.afterBudget n) (s.turns.withDriver (n + 1) rest)) := by
    rw [step_poll hs hnext hp, ← hadvance, ← hn]
    rfl
  exact (run_succ (M := Sys2Proof.core) (n + 1) hstep).trans (run_executePhase s.turns rest hu huh)

end Sys2Proof.Machine
end
